-- ==== Sys2Proof/Word.lean ====
section
/-! DEFINITION. The two word types of the block: the 8-bit byte of the wire and of the receive buffer
(R4 `BYTE`) and the 16-bit word of the checksum register and of every count (R4 `CRC_WIDTH`). -/

namespace Sys2Proof

/-- One byte of the wire, of the receive buffer and of every frame offset (R4 `BYTE`). -/
abbrev Byte := BitVec 8

/-- A 16-bit unsigned value: the CRC register, a checksum, a voltage or current count (R4, R6). -/
abbrev Word := BitVec 16

end Sys2Proof
end

