-- ==== Sys2Proof/Config.lean ====
section
/-! DEFINITION. The constants the spec fixes (R4, R170), the parameters it leaves open (R5), and the two
free values of the model (rounding of exact halves under a rule the spec does not state; `crc_check` on a candidate
shorter than its operand may be). -/

namespace Sys2Proof

namespace Config

/-- `CRC_SEED` (R4): the value loaded into the CRC register before the first byte. -/
def crcSeed : Word := 0xFFFF

/-- `CRC_POLY` (R4): the constant XORed in after a shift whose bit shifted out was 1. -/
def crcPoly : Word := 0xA001

/-- `ADDR` (R4): the address byte, first byte of every frame and start marker of the reassembler. -/
def addr : Byte := 0xF7

/-- `TERM` (R4): the terminator, last byte of every frame and end marker of the reassembler. -/
def term : Byte := 0xFD

/-- `RESP_LEN` (R4): the least length of a decodable response. -/
def respLen : Nat := 14

/-- The index at which a decodable response has its terminator (R4 `RESP_LEN`, R76). -/
def termIndex : Nat := 13

/-- `V_SCALE` (R4): counts per volt. -/
def vScale : Rat := 100

/-- `I_SCALE` (R4): counts per ampere. -/
def iScale : Rat := 1000

/-- `V_MIN` (R4), volts. -/
def vMin : Rat := 0

/-- `V_MAX` (R4), volts. -/
def vMax : Rat := 60

/-- `I_MIN` (R4), amperes. -/
def iMin : Rat := 0

/-- `I_MAX` (R4), amperes. -/
def iMax : Rat := 6

/-- `POLL_DEFAULT` (R4): the poll interval of `start_polling` called without one. -/
def pollDefault : Rat := 1

/-- `OUT_MASK` (R4): bit 5 of the status-high byte, the output state. -/
def outMask : Byte := 0x20

/-- Parity settings of a serial line; the block uses `none` (R170). -/
inductive Parity where
  | none
  | even
  | odd
  deriving DecidableEq, Repr

/-- The settings of a serial line (R170). -/
structure Line where
  baud : Nat
  dataBits : Nat
  parity : Parity
  stopBits : Nat
  flowControl : Bool
  binaryTransparent : Bool
  deriving DecidableEq, Repr

/-- The fixed line parameters (R170): 9600-8-N-1, no flow control, binary transparent. No operation changes
them and, the model having no time (R280), none depends on the rate. -/
def line : Line :=
  { baud := 9600, dataBits := 8, parity := .none, stopBits := 1, flowControl := false,
    binaryTransparent := true }

/-- FREE VALUE (log 6). Whether the exact half `k + 1/2` is rounded up to `k + 1` under a tie rule that the
spec does not state (R124: doc00 "does not say which is taken"). It has no body: nothing constrains it. -/
opaque tieRoundsUp : Int → Bool

/-- FREE VALUE (log 12). What `crc_check` answers for a candidate of fewer than 14 bytes, for which R110 states no
result. It has no body: nothing constrains it. -/
opaque crcCheckShort : List Byte → Bool

end Config

/-- `ROUND_TIE` (R5, R124): which neighbour an exact half is rounded to. The last one stands for every rule
that is not named here; it asks the free value `Config.tieRoundsUp`. -/
inductive RoundTie where
  | halfAwayFromZero
  | halfToEven
  | halfTowardZero
  | halfUp
  | halfDown
  | unstated
  deriving DecidableEq, Repr

/-- The five open parameters of R5, each with the type R5 gives it. They are fixed for one machine; the model
holds them in its state so that a statement about every state holds for every value of them (log 5). -/
structure Params where
  /-- `VERIFY_RX_CRC`: decode also checks the CRC bytes (D3). -/
  verifyRxCrc : Bool
  /-- `ROUND_TIE`: the rule for exact halves (D5). -/
  roundTie : RoundTie
  /-- `RXBUF_CAP`: `none` is unbounded (D15). -/
  rxBufCap : Option Nat
  /-- `RESET_DEVSTATE_ON_CONNECT`: a successful `connect` resets DeviceState (D9). -/
  resetDevStateOnConnect : Bool
  /-- `CONFIRM_CANCEL_ON_DISCONNECT`: `disconnect` drops the pending confirmation polls (D11). -/
  confirmCancelOnDisconnect : Bool
  deriving DecidableEq, Repr

/-- The defaults of R5. -/
def defaultParams : Params :=
  { verifyRxCrc := false, roundTie := .halfAwayFromZero, rxBufCap := none,
    resetDevStateOnConnect := true, confirmCancelOnDisconnect := false }

end Sys2Proof
end

