-- ==== Sys2Proof/Syntax.lean ====
section
/-! DEFINITION. The operations of the block: one constructor per row of spec/opcode_table.json (R88, R90),
with the operands the table gives it. The five wire rows come first, then the 25 operations without an
encoding, in the table's order. -/

namespace Sys2Proof

/-- A number handed in by the host (R204, R206, R198): an exact rational (R135), or something that is not a
finite number (a NaN or an infinity), which the range check rejects (D7). -/
inductive Quantity where
  | rational (q : Rat)
  | notANumber
  deriving DecidableEq, Repr

/-- The environment's answer to the opening of the serial port (R171, R22): success, or failure with the
underlying system error message, a string the block does not interpret (D30). -/
inductive OpenOutcome where
  | ok
  | err (msg : String)
  deriving DecidableEq, Repr

/-- The delay of a confirmation poll (R20): `0.5` time-units after `SetOutput` (R4 `CONFIRM_OUT`), `0.3` after
`SetVoltage` or `SetCurrent` (R4 `CONFIRM_SET`). The delays are labels: no rule depends on their length (R245). -/
inductive Delay where
  | half
  | threeTenths
  deriving DecidableEq, Repr

/-- A decoded measurement (R9 *Response*): the output state, volts and amperes. -/
structure Response where
  outputState : Bool
  voltage : Rat
  current : Rat
  deriving DecidableEq, Repr

/-- A handle of an external subscriber (R214): an identity the block does not look into. -/
abbrev Handle := Nat

/-- The operations of R88, one constructor per row of spec/opcode_table.json. -/
inductive Instr where
  -- wire rows: the Frame Codec's four encode operations and its decode (R90)
  /-- `encode(ReadValues)` (R120). -/
  | readValues
  /-- `encode(SetOutput(b))` (R121). -/
  | setOutput (b : Bool)
  /-- `encode(SetVoltage(v))`, `v` any rational number of volts (R122). -/
  | setVoltage (v : Rat)
  /-- `encode(SetCurrent(a))`, `a` any rational number of amperes (R123). -/
  | setCurrent (a : Rat)
  /-- `decode(cand)`, `cand` a byte sequence of any length (R130). -/
  | statusResponse (cand : List Byte)
  -- Checksum
  | crcSeed
  | crcBit
  | crcByte (b : Byte)
  | crc16Modbus (bytes : List Byte)
  | crcEmit (c : Word)
  | crcCheck (cand : List Byte)
  -- Stream Reassembler
  | rxChunk (bytes : List Byte)
  | rxReset
  -- Transport
  | tOpen (port : String) (outcome : OpenOutcome)
  | tClose
  | tLive
  | tWrite (bytes : List Byte)
  | linkLoss
  -- Session
  /-- `connect(port)`, with the answer the environment gives to the open it performs (R194, R250). -/
  | connect (port : String) (outcome : OpenOutcome)
  | disconnect
  /-- `start_polling(interval)`; `none` is a call without an interval, which means `1.0` (R198). -/
  | startPolling (interval : Option Quantity)
  | sendReadValues
  | sendSetOutput (b : Bool)
  | sendSetVoltage (v : Quantity)
  | sendSetCurrent (a : Quantity)
  | pollTick
  | confirmTick (d : Delay)
  | onResponse (r : Response)
  | subscribe (h : Handle)
  | notify (v i : Rat) (o : Bool)
  deriving DecidableEq, Repr

/-- Who may invoke an operation (R88 "Caller"). -/
inductive Caller where
  | host
  | timer
  | line
  | internal
  deriving DecidableEq, Repr

/-- One thing offered to the block from outside (R236): an operation of R88 with its operands, or the wire
pattern of one of the five wire rows, which the decoder turns into that row's operation (log 3). -/
inductive Input where
  | op (i : Instr)
  | frame (bytes : List Byte)
  deriving DecidableEq, Repr

end Sys2Proof
end

