-- ==== Sys2Proof/Machine/Operands.lean ====
section
/-! DEFINITION. The operand forms: bytes of a word (R6), scaling of volts and amperes to counts (R124, R125,
R127), the range checks of the Set commands (R204, R206), the interval of `start_polling` (R198), and the byte
sequence notation of R7. None of it reads the state. -/

namespace Sys2Proof.Machine

/-- `lo8(w) = w[7:0]` (R6). -/
def lo8 (w : Word) : Byte := w.extractLsb' 0 8

/-- `hi8(w) = w[15:8]` (R6). -/
def hi8 (w : Word) : Byte := w.extractLsb' 8 8

/-- `be16(h, l) = 256*h + l` (R6, R45): the word with high byte `h` and low byte `l`. -/
def be16 (h l : Byte) : Word := h ++ l

/-- `zext_16(b)` (R6): a byte widened to 16 bits with zeros. -/
def zext16 (b : Byte) : Word := b.setWidth 16

/-- The byte at index `i` (R7). The model asks for it only below the length of the sequence; `0` elsewhere. -/
def byteAt (s : List Byte) (i : Nat) : Byte := s.getD i 0

/-- `s[i..j]` (R7): the inclusive slice, `[]` when `i > j`. -/
def slice (s : List Byte) (i j : Nat) : List Byte := (s.take (j + 1)).drop i

/-- `first(s, b)` (R7): the least index at which `b` stands, or `none`. -/
def first (s : List Byte) (b : Byte) : Option Nat := s.findIdx? (· == b)

/-- Whether the exact half `f + 1/2` is rounded up to `f + 1` under the tie rule (R124 `ROUND_TIE`). -/
def tieUp (tie : RoundTie) (f : Int) : Bool :=
  match tie with
  | .halfAwayFromZero => decide (0 ≤ f)
  | .halfToEven => decide (f % 2 = 1)
  | .halfTowardZero => decide (f < 0)
  | .halfUp => true
  | .halfDown => false
  | .unstated => Config.tieRoundsUp f

/-- `round(x)` (R124): the integer nearest to `x`; an exact half goes where the tie rule says. -/
def roundRat (tie : RoundTie) (x : Rat) : Int :=
  let f := x.floor
  if x - f < 1 / 2 then f
  else if 1 / 2 < x - f then f + 1
  else if tieUp tie f then f + 1 else f

/-- `clamp16(n)` (R125): saturation to the range of an unsigned 16-bit number. -/
def clamp16 (n : Int) : Int := if n < 0 then 0 else if 65535 < n then 65535 else n

/-- `scale16(x, k) = clamp16(round(x * k))` (R127), as the 16-bit count it is; the product is exact. -/
def scale16 (tie : RoundTie) (x k : Rat) : Word := BitVec.ofInt 16 (clamp16 (roundRat tie (x * k)))

/-- The data byte of `SetOutput(b)` (R77). -/
def outputByte (b : Bool) : Byte := if b then 0x01 else 0x00

/-- The range check of R204 and R206: the number, when it is one and lies in `[lo, hi]`, both ends included;
`none` is the `RangeError`, also for what is not a number (D7). -/
def inRange (lo hi : Rat) (q : Quantity) : Option Rat :=
  match q with
  | .rational x => if lo ≤ x ∧ x ≤ hi then some x else none
  | .notANumber => none

/-- The interval of `start_polling` (R198): `1.0` when the caller gives none, the number when it is positive;
`none` is an interval outside the operation's domain (D18). -/
def pollInterval (interval : Option Quantity) : Option Rat :=
  match interval with
  | none => some Config.pollDefault
  | some (.rational q) => if 0 < q then some q else none
  | some .notANumber => none

end Sys2Proof.Machine
end

