-- ==== Sys2Proof/Machine/Crc.lean ====
section
/-! DEFINITION. The CRC-16/MODBUS algorithm of the Checksum unit as pure functions, R101 to R105 and R110
literally (R106 asks for that). The operations over the CRC register are in Machine/Checksum.lean. -/

namespace Sys2Proof.Machine

/-- One `crc_bit` (R102): the test reads bit 0 before the shift; the XOR acts on the shifted value. -/
def crcBitStep (c : Word) : Word := if c.getLsbD 0 then (c >>> 1) ^^^ Config.crcPoly else c >>> 1

/-- One `crc_byte(b)` (R103): the byte is XORed in whole, then eight `crc_bit`. -/
def crcByteStep (c : Word) (b : Byte) : Word :=
  crcBitStep (crcBitStep (crcBitStep (crcBitStep
    (crcBitStep (crcBitStep (crcBitStep (crcBitStep (c ^^^ zext16 b))))))))

/-- The register after `crc_byte` over `bytes` in order, from the register value `c` (R104, R111). -/
def crcUpdate (c : Word) (bytes : List Byte) : Word := bytes.foldl crcByteStep c

/-- `crc16_modbus(bytes)` (R104): from the seed, every byte in order; no final XOR, no reversal, no swap. -/
def crc16 (bytes : List Byte) : Word := crcUpdate Config.crcSeed bytes

/-- `crc_emit(c)` (R105): low byte, then high byte. -/
def crcEmitBytes (c : Word) : List Byte := [lo8 c, hi8 c]

/-- `crc_check(cand)` (R110), for `len(cand) >= 14`: bytes 11 and 12 are the CRC of bytes 0 to 10. -/
def crcCheckOk (cand : List Byte) : Bool :=
  [byteAt cand 11, byteAt cand 12] == crcEmitBytes (crc16 (slice cand 0 10))

/-- The answer of `crc_check` for every candidate: R110's comparison from 14 bytes on, a free value below (log 12). -/
def crcCheckAnswer (cand : List Byte) : Bool :=
  if cand.length < Config.respLen then Config.crcCheckShort cand else crcCheckOk cand

end Sys2Proof.Machine
end

