-- ==== Sys2Proof/Machine/Frames.lean ====
section
/-! DEFINITION. The Frame Codec as pure functions: the payload templates (R72), `frame` (R126), the four
encodings (R120 to R123) and `decode` (R130). The operations that record their results are in
Machine/Codec.lean. -/

namespace Sys2Proof.Machine

/-- `frame(payload)` (R126): payload, CRC low byte, CRC high byte, terminator. -/
def frame (payload : List Byte) : List Byte := payload ++ crcEmitBytes (crc16 payload) ++ [Config.term]

/-- The payload of `ReadValues` (R72, format `CMD5` R73). -/
def readValuesPayload : List Byte := [Config.addr, 0x01, 0x03, 0x04, 0x03]

/-- The payload of `SetOutput(b)` (R72, format `CMD7` R74, R77). -/
def setOutputPayload (b : Bool) : List Byte := [Config.addr, 0x01, 0x0A, 0x1E, 0x01, 0x00, outputByte b]

/-- The payload of `SetVoltage` with count `n` (R72, R74, R78): the count travels high byte first (R45). -/
def setVoltagePayload (n : Word) : List Byte := [Config.addr, 0x01, 0x0A, 0x09, 0x01, hi8 n, lo8 n]

/-- The payload of `SetCurrent` with count `n` (R72, R74, R79). -/
def setCurrentPayload (n : Word) : List Byte := [Config.addr, 0x01, 0x0A, 0x0A, 0x01, hi8 n, lo8 n]

/-- `encode(ReadValues)` (R120). -/
def encodeReadValues : List Byte := frame readValuesPayload

/-- `encode(SetOutput(b))` (R121). -/
def encodeSetOutput (b : Bool) : List Byte := frame (setOutputPayload b)

/-- `encode(SetVoltage(v))` (R122); total, no range check. -/
def encodeSetVoltage (tie : RoundTie) (v : Rat) : List Byte :=
  frame (setVoltagePayload (scale16 tie v Config.vScale))

/-- `encode(SetCurrent(a))` (R123); total, no range check. -/
def encodeSetCurrent (tie : RoundTie) (a : Rat) : List Byte :=
  frame (setCurrentPayload (scale16 tie a Config.iScale))

/-- Bit 5 of the status-high byte (R13 c, R80): `(status and 0x20) != 0`. -/
def outputBit (status : Byte) : Bool := status &&& Config.outMask != 0

/-- The measurement in a candidate that passed the tests of `decode` (R80): offsets 5, 7 to 8 and 9 to 10. -/
def measurement (cand : List Byte) : Response :=
  { outputState := outputBit (byteAt cand 5)
    voltage := ((be16 (byteAt cand 7) (byteAt cand 8)).toNat : Rat) / Config.vScale
    current := ((be16 (byteAt cand 9) (byteAt cand 10)).toNat : Rat) / Config.iScale }

/-- `decode(cand)` (R130), total on every byte sequence; `verify` is `VERIFY_RX_CRC`. -/
def decodeCandidate (verify : Bool) (cand : List Byte) : Option Response :=
  if cand.length < Config.respLen then none
  else if byteAt cand 0 ≠ Config.addr then none
  else if byteAt cand Config.termIndex ≠ Config.term then none
  else if verify && !crcCheckOk cand then none
  else some (measurement cand)

end Sys2Proof.Machine
end

