-- ==== Sys2Proof/Decode.lean ====
section
/-! DEFINITION. The wire rows of spec/opcode_table.json: their patterns and masks (R90), the decoder from
bytes to an operation, total and rejecting by name, and the encoder. The 25 `HOST` rows have no encoding. -/

namespace Sys2Proof

open Sys2Proof.Machine (byteAt be16)

/-- Why a byte sequence is an instance of no wire row. -/
inductive Reject where
  /-- Its length is none of 8, 10 and 14 (R71). -/
  | badLength
  /-- It does not start with the address byte `0xF7` (R70). -/
  | badAddress
  /-- It does not end with the terminator `0xFD` (R70). -/
  | badTerminator
  /-- An 8 or 10 byte sequence whose opcode or fixed bytes are those of no command row (R73, R74, R84). -/
  | unknownCommand
  deriving DecidableEq, Repr

/-- The five wire rows (R90). -/
inductive WireRow where
  | readValues
  | setOutput
  | setVoltage
  | setCurrent
  | statusResponse
  deriving DecidableEq, Repr

/-- One wire row of spec/opcode_table.json: `match` and `mask`, byte 0 first. -/
structure TableRow where
  row : WireRow
  pattern : List Byte
  mask : List Byte
  deriving DecidableEq, Repr

/-- The wire rows with the `match` and `mask` of spec/opcode_table.json. -/
def wireTable : List TableRow :=
  [ { row := .readValues
      pattern := [0xF7, 0x01, 0x03, 0x04, 0x03, 0x62, 0xE8, 0xFD]
      mask := [0xFF, 0xFF, 0xFF, 0xFF, 0xFF, 0xFF, 0xFF, 0xFF] },
    { row := .setOutput
      pattern := [0xF7, 0x01, 0x0A, 0x1E, 0x01, 0x00, 0x00, 0x00, 0x00, 0xFD]
      mask := [0xFF, 0xFF, 0xFF, 0xFF, 0xFF, 0xFF, 0xFE, 0x00, 0x00, 0xFF] },
    { row := .setVoltage
      pattern := [0xF7, 0x01, 0x0A, 0x09, 0x01, 0x00, 0x00, 0x00, 0x00, 0xFD]
      mask := [0xFF, 0xFF, 0xFF, 0xFF, 0xFF, 0x00, 0x00, 0x00, 0x00, 0xFF] },
    { row := .setCurrent
      pattern := [0xF7, 0x01, 0x0A, 0x0A, 0x01, 0x00, 0x00, 0x00, 0x00, 0xFD]
      mask := [0xFF, 0xFF, 0xFF, 0xFF, 0xFF, 0x00, 0x00, 0x00, 0x00, 0xFF] },
    { row := .statusResponse
      pattern := [0xF7, 0x00, 0x00, 0x00, 0x00, 0x00, 0x00, 0x00, 0x00, 0x00, 0x00, 0x00, 0x00, 0xFD]
      mask := [0xFF, 0x00, 0x00, 0x00, 0x00, 0x00, 0x00, 0x00, 0x00, 0x00, 0x00, 0x00, 0x00, 0xFF] } ]

/-- A frame is an instance of a row when it has the row's length and `(f and mask) = match` bytewise (R90). -/
def TableRow.isInstance (r : TableRow) (f : List Byte) : Bool :=
  f.length == r.mask.length && List.zipWith (· &&& ·) f r.mask == r.pattern

/-- The operation an instance of a row stands for: its variable bits are the operand (R74, R76, R77, R78, R79). -/
def wireInstr (row : WireRow) (f : List Byte) : Instr :=
  match row with
  | .readValues => .readValues
  | .setOutput => .setOutput ((byteAt f 6).getLsbD 0)
  | .setVoltage => .setVoltage (((be16 (byteAt f 5) (byteAt f 6)).toNat : Rat) / Config.vScale)
  | .setCurrent => .setCurrent (((be16 (byteAt f 5) (byteAt f 6)).toNat : Rat) / Config.iScale)
  | .statusResponse => .statusResponse f

/-- Why a byte sequence that matches no row is rejected. -/
def rejectReason (f : List Byte) : Reject :=
  if f.length ≠ 8 ∧ f.length ≠ 10 ∧ f.length ≠ 14 then .badLength
  else if byteAt f 0 ≠ Config.addr then .badAddress
  else if byteAt f (f.length - 1) ≠ Config.term then .badTerminator
  else .unknownCommand

/-- The decoder of the wire rows, total on every byte sequence. As in the table (R90), the CRC bytes of the
three `CMD7` rows are variable bits that carry no operand. -/
def decodeFrame (f : List Byte) : Except Reject Instr :=
  match wireTable.find? (·.isInstance f) with
  | some r => .ok (wireInstr r.row f)
  | none => .error (rejectReason f)

/-- The encoder: the frame of a wire row's operation (R120 to R123; a response is its own bytes, R76), and
`none` for the operations without an encoding (R88). A candidate that is no `RSP14` frame has none either. -/
def encode (tie : RoundTie) (i : Instr) : Option (List Byte) :=
  match i with
  | .readValues => some Machine.encodeReadValues
  | .setOutput b => some (Machine.encodeSetOutput b)
  | .setVoltage v => some (Machine.encodeSetVoltage tie v)
  | .setCurrent a => some (Machine.encodeSetCurrent tie a)
  | .statusResponse cand =>
    if cand.length = Config.respLen ∧ byteAt cand 0 = Config.addr ∧
        byteAt cand Config.termIndex = Config.term then some cand else none
  | .crcSeed => none
  | .crcBit => none
  | .crcByte _ => none
  | .crc16Modbus _ => none
  | .crcEmit _ => none
  | .crcCheck _ => none
  | .rxChunk _ => none
  | .rxReset => none
  | .tOpen _ _ => none
  | .tClose => none
  | .tLive => none
  | .tWrite _ => none
  | .linkLoss => none
  | .connect _ _ => none
  | .disconnect => none
  | .startPolling _ => none
  | .sendReadValues => none
  | .sendSetOutput _ => none
  | .sendSetVoltage _ => none
  | .sendSetCurrent _ => none
  | .pollTick => none
  | .confirmTick _ => none
  | .onResponse _ => none
  | .subscribe _ => none
  | .notify _ _ _ => none

/-- The frame whose bits the host's number `w` gives: byte `k` is bits `8k+7..8k`, one byte per 8 of `nbits`. -/
def frameOfWord (nbits w : Nat) : List Byte :=
  (List.range (nbits / 8)).map fun k => BitVec.ofNat 8 (w / 2 ^ (8 * k))

/-- The operation the decoder reads from the frame whose bits are `w`; the five wire rows give every bit of
their frames, so no bit is missing above `nbits`. -/
def decodeTableWord (nbits w : Nat) : Option Instr :=
  match decodeFrame (frameOfWord nbits w) with
  | .ok i => some i
  | .error _ => none

end Sys2Proof
end

