-- ==== Sys2Proof/WellFormed.lean ====
section
/-! DEFINITION. Which terms of `Instr` have operands in the domain the spec gives them, which wire operations
have operands that their frame carries exactly, and who may invoke an operation (R88). All are Bools. -/

namespace Sys2Proof

open Sys2Proof.Machine

/-- A rational that is an unsigned 16-bit count (R131, R136). -/
def isCount (x : Rat) : Bool := x.den == 1 && decide (0 ≤ x) && decide (x ≤ 65535)

/-- A byte sequence that is one of the command frames the block can emit (R72): the operand of `t_write` is
"one encoded frame" (R174). The count of a Set frame is any 16-bit value, as `encode` gives (R122, R123). -/
def isCommandFrame (f : List Byte) : Bool :=
  f == encodeReadValues || f == encodeSetOutput true || f == encodeSetOutput false ||
    f == frame (setVoltagePayload (be16 (byteAt f 5) (byteAt f 6))) ||
    f == frame (setCurrentPayload (be16 (byteAt f 5) (byteAt f 6)))

/-- A byte sequence of the format `RSP14` (R76): 14 bytes, address byte first, terminator at index 13. -/
def isResponseFrame (f : List Byte) : Bool :=
  f.length == Config.respLen && byteAt f 0 == Config.addr && byteAt f Config.termIndex == Config.term

/-- The measurement is one that `decode` can give (R131): `n/100` volts and `m/1000` amperes with 16-bit counts. -/
def Response.isDecodable (r : Response) : Bool :=
  isCount (r.voltage * Config.vScale) && isCount (r.current * Config.iScale)

/-- The operands lie in the domain the spec gives the operation: a candidate of `crc_check` has at least 14
bytes (R110), the bytes of `t_write` are one encoded frame (R174), the interval of `start_polling` is a positive
number (R198), the operand of `on_response` is a decoded response (R212). The others take every operand. -/
def Instr.wellFormed (i : Instr) : Bool :=
  match i with
  | .crcCheck cand => decide (Config.respLen ≤ cand.length)
  | .tWrite bytes => isCommandFrame bytes
  | .startPolling interval => (pollInterval interval).isSome
  | .onResponse r => r.isDecodable
  | .readValues => true
  | .setOutput _ => true
  | .setVoltage _ => true
  | .setCurrent _ => true
  | .statusResponse _ => true
  | .crcSeed => true
  | .crcBit => true
  | .crcByte _ => true
  | .crc16Modbus _ => true
  | .crcEmit _ => true
  | .rxChunk _ => true
  | .rxReset => true
  | .tOpen _ _ => true
  | .tClose => true
  | .tLive => true
  | .linkLoss => true
  | .connect _ _ => true
  | .disconnect => true
  | .sendReadValues => true
  | .sendSetOutput _ => true
  | .sendSetVoltage _ => true
  | .sendSetCurrent _ => true
  | .pollTick => true
  | .confirmTick _ => true
  | .subscribe _ => true
  | .notify _ _ _ => true

/-- The operation is that of a wire row and its frame carries its operand exactly: a voltage that is a 16-bit
count of hundredths, a current that is a 16-bit count of thousandths (R78, R79, R134), a candidate of the format
`RSP14`. The operations without an encoding (R88) are not. -/
def Instr.onGrid (i : Instr) : Bool :=
  match i with
  | .readValues => true
  | .setOutput _ => true
  | .setVoltage v => isCount (v * Config.vScale)
  | .setCurrent a => isCount (a * Config.iScale)
  | .statusResponse cand => isResponseFrame cand
  | .crcSeed => false
  | .crcBit => false
  | .crcByte _ => false
  | .crc16Modbus _ => false
  | .crcEmit _ => false
  | .crcCheck _ => false
  | .rxChunk _ => false
  | .rxReset => false
  | .tOpen _ _ => false
  | .tClose => false
  | .tLive => false
  | .tWrite _ => false
  | .linkLoss => false
  | .connect _ _ => false
  | .disconnect => false
  | .startPolling _ => false
  | .sendReadValues => false
  | .sendSetOutput _ => false
  | .sendSetVoltage _ => false
  | .sendSetCurrent _ => false
  | .pollTick => false
  | .confirmTick _ => false
  | .onResponse _ => false
  | .subscribe _ => false
  | .notify _ _ _ => false

/-- The column "Caller" of R88. -/
def Instr.callers (i : Instr) : List Caller :=
  match i with
  | .readValues => [.internal]
  | .setOutput _ => [.internal]
  | .setVoltage _ => [.internal]
  | .setCurrent _ => [.internal]
  | .statusResponse _ => [.internal]
  | .crcSeed => [.internal]
  | .crcBit => [.internal]
  | .crcByte _ => [.internal]
  | .crc16Modbus _ => [.internal]
  | .crcEmit _ => [.internal]
  | .crcCheck _ => [.internal]
  | .rxChunk _ => [.line]
  | .rxReset => [.internal]
  | .tOpen _ _ => [.internal]
  | .tClose => [.internal]
  | .tLive => [.host, .internal]
  | .tWrite _ => [.internal]
  | .linkLoss => [.line]
  | .connect _ _ => [.host]
  | .disconnect => [.host]
  | .startPolling _ => [.host]
  | .sendReadValues => [.host, .internal]
  | .sendSetOutput _ => [.host]
  | .sendSetVoltage _ => [.host]
  | .sendSetCurrent _ => [.host]
  | .pollTick => [.timer]
  | .confirmTick _ => [.timer]
  | .onResponse _ => [.internal]
  | .subscribe _ => [.host]
  | .notify _ _ _ => [.internal]

/-- The operation can be invoked from outside the block (R88): by the host, a timer or the line. -/
def Instr.isExternal (i : Instr) : Bool := i.callers.any (· != .internal)

/-- An input the spec's environment can offer (R236): an external operation. A wire pattern is none. -/
def Input.isExternal (x : Input) : Bool :=
  match x with
  | .op i => i.isExternal
  | .frame _ => false

end Sys2Proof
end

