-- ==== Sys2Proof/Machine/State.lean ====
section
/-! DEFINITION. The state of the block (R10), all of it plain data; the histories it puts out (R19, R215); the
model's own fields (the inputs still to be processed, the value the last operation returned, the parameters of
R5); the reasons a step can stop; and the state after power-on reset (R261). -/

namespace Sys2Proof.Machine

/-- `conn` (R14). `Connecting` is held only inside a `connect`. -/
inductive Conn where
  | disconnected
  | connecting
  | connected
  deriving DecidableEq, Repr

/-- DeviceState (R11): five registers owned by the Session, held as exact rationals (R27). -/
structure DeviceState where
  voltage : Rat
  current : Rat
  outputState : Bool
  setVoltage : Rat
  setCurrent : Rat
  deriving DecidableEq, Repr

/-- The values `0, 0, false, 0, 0` of both resets (R25, D9, D10). -/
def DeviceState.zero : DeviceState :=
  { voltage := 0, current := 0, outputState := false, setVoltage := 0, setCurrent := 0 }

/-- `confirm_pending` (R20): a finite multiset whose elements are `0.5` or `0.3`, held as the two multiplicities,
so that equal multisets are equal data (log 18). -/
structure Confirms where
  /-- how many entries `0.5` -/
  half : Nat
  /-- how many entries `0.3` -/
  threeTenths : Nat
  deriving DecidableEq, Repr

/-- The empty multiset. -/
def Confirms.empty : Confirms := { half := 0, threeTenths := 0 }

/-- One call of a subscriber's handler (R215): who was called, with what. -/
structure Notification where
  handler : Handle
  voltage : Rat
  current : Rat
  outputState : Bool
  deriving DecidableEq, Repr

/-- The errors of R230. The silent drop is no error: it is the result `none` of `decode` (R235). -/
inductive Error where
  /-- Raised by `connect` through `t_open` (R231), with the system's message. -/
  | connectionError (msg : String)
  /-- Raised by `send(SetVoltage)` and `send(SetCurrent)` (R232). -/
  | rangeError
  deriving DecidableEq, Repr

/-- What an operation hands back to its caller (R250): nothing, a value, or one error. -/
inductive Result where
  /-- The operation ended and returns no value. -/
  | done
  /-- The value of `crc16_modbus` (R104). -/
  | word (c : Word)
  /-- The bytes of `crc_emit` (R105) and of `encode` (R120 to R123). -/
  | bytes (bs : List Byte)
  /-- The answer of `crc_check` (R110) and of `t_live` (R173). -/
  | flag (b : Bool)
  /-- The tagged result of `decode` (R130). -/
  | decoded (r : Option Response)
  /-- The error the operation raised (R234). -/
  | raised (e : Error)
  deriving DecidableEq, Repr

/-- The state of the block. The fields `crc` to `debugTrace` are the registers of R10; `tx` and `notifications`
are its two output histories; `params`, `result` and `inputs` are the model's own (log 3, 4, 5). -/
structure State where
  /-- The CRC working register (R26). -/
  crc : Word
  /-- The receive buffer (R18): index 0 is the oldest byte (R40). -/
  buf : List Byte
  /-- Whether the serial connection is open (R13 b). -/
  live : Bool
  /-- The connection state (R14). -/
  conn : Conn
  /-- The port of the last successful `connect` (R15). -/
  port : Option String
  /-- The five DeviceState registers (R11). -/
  dev : DeviceState
  /-- The recurring poll schedule: its interval in time-units (R16). -/
  pollSched : Option Rat
  /-- The confirmation polls scheduled and not yet fired (R20). -/
  confirmPending : Confirms
  /-- The subscribers in registration order (R21). -/
  subs : List Handle
  /-- The debug-trace toggle of the configuration; no rule reads it (R17). -/
  debugTrace : Bool
  /-- Every byte the Transport has written to the line, oldest first (R19). -/
  tx : List Byte
  /-- Every notification delivered, oldest first (R215). -/
  notifications : List Notification
  /-- The open parameters of R5; no operation writes them. -/
  params : Params
  /-- What the last operation handed back to its caller; no operation reads it. -/
  result : Result
  /-- What the environment offers next, in the order it will be processed (R22, R236). -/
  inputs : List Input
  deriving DecidableEq, Repr

/-- Reasons for a fault: none. "No condition in this core is fatal" (R230): an error is a value returned to the
caller (R240), and a malformed frame is a silent drop (R233). Nothing in the model raises a fault. -/
inductive Fault where
  deriving DecidableEq, Repr

/-- Reasons for a refusal: the model gives the input no meaning, where the spec asks for a refusal or gives none. -/
inductive Refusal where
  /-- An operation without a meaning in the model; raised by `exec`'s arm for it. Safe: the model stops. -/
  | notModelled (mnemonic : String)
  /-- Raised by `rx_chunk` when the append would exceed a finite `RXBUF_CAP` (R43, D15). Safe: the model stops. -/
  | rxBufOverflow
  /-- Raised by `start_polling` for an interval that is zero, negative or not a number (R198, D18). Safe. -/
  | intervalOutsideDomain
  /-- Raised by `step` for a wire pattern that is an instance of no wire row (U20). Safe. -/
  | undecodable (why : Reject)
  deriving DecidableEq, Repr

/-- The state after power-on reset (R261, last column of R10). The CRC register needs no reset value (R10); the
model gives it the seed (log 1). Nothing is offered and nothing has been returned (log 3, 4); the parameters have
the defaults of R5 (log 5). -/
def State.reset : State :=
  { crc := Config.crcSeed
    buf := []
    live := false
    conn := .disconnected
    port := none
    dev := DeviceState.zero
    pollSched := none
    confirmPending := Confirms.empty
    subs := []
    debugTrace := false
    tx := []
    notifications := []
    params := defaultParams
    result := .done
    inputs := [] }

end Sys2Proof.Machine
end

