-- ==== Sys2Proof/Machine/Flags.lean ====
section
/-! DEFINITION. The conditions of the block (R13) that an operation tests: `connected()` (R192), the room in the
receive buffer (R43), and whether an event is enabled (R236). The output-state bit of a response is
`outputBit` in Machine/Frames.lean; no operation sets a flag as a side effect (R13). -/

namespace Sys2Proof.Machine

/-- `connected()` (R192): `conn = Connected and live`. -/
def isConnected (s : State) : Bool := s.conn == .connected && s.live

/-- The buffer's capacity admits a length (R43): always when `RXBUF_CAP` is unbounded. -/
def fitsCap (cap : Option Nat) (n : Nat) : Bool :=
  match cap with
  | none => true
  | some c => decide (n ≤ c)

/-- The canonical form of the block's memory (R10, R40): the receive buffer is a byte sequence of length 0 to
`RXBUF_CAP`. A byte sequence has no unlisted addresses, so equal buffers are equal data as they stand (log 11). -/
def Memory.wf (cap : Option Nat) (buf : List Byte) : Bool := fitsCap cap buf.length

/-- The multiplicity of a delay in `confirm_pending` (R20). -/
def confirmCount (c : Confirms) (d : Delay) : Nat :=
  match d with
  | .half => c.half
  | .threeTenths => c.threeTenths

/-- `poll_tick` is enabled (R236): a schedule is set. -/
def pollEnabled (s : State) : Bool := s.pollSched.isSome

/-- `confirm_tick(d)` is enabled (R236): an entry `d` is pending. -/
def confirmEnabled (d : Delay) (s : State) : Bool := decide (0 < confirmCount s.confirmPending d)

end Sys2Proof.Machine
end

