-- ==== Sys2Proof/Machine/Ops.lean ====
section
/-! DEFINITION. The named operations over the receive buffer and the registers, each used by the meanings of
several instructions: the buffer's reads and two writes (R8), the Transport's steps (R171 to R174), notification
and the applying of a response (R215, R212), the scheduling of confirmation polls (R20), the poll (R200), and the
raising of an error (R234), the block's counterpart of taking an exception. -/

namespace Sys2Proof.Machine

/-- The operation ends and hands `r` to its caller (R250). -/
def complete (r : Result) (s : State) : Host.Outcome State Fault Refusal := .next { s with result := r }

/-- `raise E` (R234): the operation ends at once and returns `E` to the outside caller; nothing is saved, no mode
changes, control goes nowhere. The state is what the operation had reached. There is no return from it (R240):
an error is a return value, and recovery is by calling again. -/
def raise (e : Error) (s : State) : Host.Outcome State Fault Refusal := complete (.raised e) s

/-- One byte of the receive buffer (R40): none at an index that is not valid. -/
def bufByte (s : State) (i : Nat) : Option Byte := s.buf[i]?

/-- `MemRead(addr, n)` (R8): `n` bytes of the buffer from index `addr`, without removing them. -/
def bufRead (s : State) (addr n : Nat) : List Byte := (s.buf.drop addr).take n

/-- `BufAppend(bytes)` (R8). -/
def bufAppend (bytes : List Byte) (s : State) : State := { s with buf := s.buf ++ bytes }

/-- `BufDrop(n)` (R8): the removal of the first `n` bytes renumbers the rest down by `n` (R40). -/
def bufDrop (n : Nat) (s : State) : State := { s with buf := s.buf.drop n }

/-- `rx_reset` (R158). -/
def bufReset (s : State) : State := { s with buf := [] }

/-- `t_open(port)` up to its return (R171): `live` follows the environment's answer. -/
def openLine (outcome : OpenOutcome) (s : State) : State :=
  { s with live := match outcome with | .ok => true | .err _ => false }

/-- `t_close` (R172): `live` falls; nothing happens when it is already down. -/
def closeLine (s : State) : State := { s with live := false }

/-- `t_write(bytes)` (R174): the bytes go onto the line in order when it is live, else nothing happens. -/
def writeLine (bytes : List Byte) (s : State) : State :=
  { s with tx := if s.live then s.tx ++ bytes else s.tx }

/-- `notify(v, i, o)` (R215): one call per subscriber, in registration order, all recorded; the failure of a
handler is swallowed and the loop goes on, so it shows nowhere. -/
def notifyAll (v i : Rat) (o : Bool) (s : State) : State :=
  { s with notifications := s.notifications ++
      s.subs.map fun h => { handler := h, voltage := v, current := i, outputState := o } }

/-- `on_response(r)` (R212): the three measurement registers are written, then the subscribers are called. -/
def applyResponse (r : Response) (s : State) : State :=
  notifyAll r.voltage r.current r.outputState
    { s with dev := { s.dev with voltage := r.voltage, current := r.current, outputState := r.outputState } }

/-- One more entry `d` (R20): entries are independent, a new one replaces none. -/
def confirmAdd (d : Delay) (c : Confirms) : Confirms :=
  match d with
  | .half => { c with half := c.half + 1 }
  | .threeTenths => { c with threeTenths := c.threeTenths + 1 }

/-- One entry `d` fewer (R210). -/
def confirmRemove (d : Delay) (c : Confirms) : Confirms :=
  match d with
  | .half => { c with half := c.half - 1 }
  | .threeTenths => { c with threeTenths := c.threeTenths - 1 }

/-- "schedules a confirmation poll" after the delay `d` (R202, R204, R206). -/
def scheduleConfirm (d : Delay) (s : State) : State :=
  { s with confirmPending := confirmAdd d s.confirmPending }

/-- "remove one entry d from reg.confirm_pending" (R210). -/
def unscheduleConfirm (d : Delay) (s : State) : State :=
  { s with confirmPending := confirmRemove d s.confirmPending }

/-- `send(ReadValues)` (R200), the poll of R89: a no-op when not connected. -/
def poll (s : State) : State := if isConnected s then writeLine encodeReadValues s else s

end Sys2Proof.Machine
end

