-- ==== Sys2Proof/Machine/Checksum.lean ====
section
/-! DEFINITION. The meanings of the Checksum unit's operations (R101 to R105, R110). The unit's only register is
`crc` (R26); whole computations inside the Frame Codec are values and leave it alone (log 10). -/

namespace Sys2Proof.Machine

/-- `crc_seed` (R101). -/
def execCrcSeed (s : State) : Host.Outcome State Fault Refusal :=
  complete .done { s with crc := Config.crcSeed }

/-- `crc_bit` (R102). -/
def execCrcBit (s : State) : Host.Outcome State Fault Refusal :=
  complete .done { s with crc := crcBitStep s.crc }

/-- `crc_byte(b)` (R103). -/
def execCrcByte (b : Byte) (s : State) : Host.Outcome State Fault Refusal :=
  complete .done { s with crc := crcByteStep s.crc b }

/-- `crc16_modbus(bytes)` (R104): the register is seeded, takes every byte, and its final value is returned. -/
def execCrc16Modbus (bytes : List Byte) (s : State) : Host.Outcome State Fault Refusal :=
  complete (.word (crc16 bytes)) { s with crc := crc16 bytes }

/-- `crc_emit(c)` (R105). -/
def execCrcEmit (c : Word) (s : State) : Host.Outcome State Fault Refusal :=
  complete (.bytes (crcEmitBytes c)) s

/-- `crc_check(cand)` (R110): the answer is handed back, no register changes. Below 14 bytes, where R110 states no
result, that one value is free (log 12). -/
def execCrcCheck (cand : List Byte) (s : State) : Host.Outcome State Fault Refusal :=
  complete (.flag (crcCheckAnswer cand)) s

end Sys2Proof.Machine
end

