-- ==== Sys2Proof/Machine/Codec.lean ====
section
/-! DEFINITION. The meanings of the wire rows: the Frame Codec's `encode` (R120 to R123) and `decode` (R130).
They are pure: they write no register, and their value is what the operation hands back. -/

namespace Sys2Proof.Machine

/-- `encode(ReadValues)` (R120). -/
def execReadValues (s : State) : Host.Outcome State Fault Refusal :=
  complete (.bytes encodeReadValues) s

/-- `encode(SetOutput(b))` (R121). -/
def execSetOutput (b : Bool) (s : State) : Host.Outcome State Fault Refusal :=
  complete (.bytes (encodeSetOutput b)) s

/-- `encode(SetVoltage(v))` (R122). -/
def execSetVoltage (v : Rat) (s : State) : Host.Outcome State Fault Refusal :=
  complete (.bytes (encodeSetVoltage s.params.roundTie v)) s

/-- `encode(SetCurrent(a))` (R123). -/
def execSetCurrent (a : Rat) (s : State) : Host.Outcome State Fault Refusal :=
  complete (.bytes (encodeSetCurrent s.params.roundTie a)) s

/-- `decode(cand)` (R130). -/
def execStatusResponse (cand : List Byte) (s : State) : Host.Outcome State Fault Refusal :=
  complete (.decoded (decodeCandidate s.params.verifyRxCrc cand)) s

end Sys2Proof.Machine
end

