-- ==== Sys2Proof/Machine/Reassembler.lean ====
section
/-! DEFINITION. The Stream Reassembler: the extraction loop (R150 to R155) and the meanings of `rx_chunk` and
`rx_reset` (R158). -/

namespace Sys2Proof.Machine

/-- The hand-over of a candidate (R154): a decoded response goes to `on_response` at once, `none` is a silent
drop (R233). -/
def handOver (cand : List Byte) (s : State) : State :=
  match decodeCandidate s.params.verifyRxCrc cand with
  | some r => applyResponse r s
  | none => s

/-- One iteration of the loop (R150) with the scan results `a` (the rule's `s`) and `e` (R152): slice (R153), hand
over (R154), remove (R155). -/
def extract (a e : Nat) (s : State) : State := bufDrop (e + 1) (handOver (slice s.buf a e) s)

/-- The loop of R150 and R151: while both markers stand somewhere in the buffer, one extraction at the first of
each. The fuel bounds the iterations; each removes a byte, so the buffer's length is enough (R159). -/
def extractLoop (fuel : Nat) (s : State) : State :=
  match fuel with
  | 0 => s
  | fuel + 1 =>
    match first s.buf Config.addr, first s.buf Config.term with
    | some a, some e => extractLoop fuel (extract a e s)
    | none, _ => s
    | some _, none => s

/-- `rx_chunk(bytes)` (R150), run to completion: append, then the loop. While the connection is not live receipt
does nothing and the bytes are lost (R175, R176). An append beyond a finite `RXBUF_CAP` is refused (R43). -/
def execRxChunk (bytes : List Byte) (s : State) : Host.Outcome State Fault Refusal :=
  if !s.live then complete .done s
  else if !fitsCap s.params.rxBufCap (s.buf.length + bytes.length) then .refused .rxBufOverflow
  else complete .done (extractLoop (s.buf.length + bytes.length) (bufAppend bytes s))

/-- `rx_reset` (R158). -/
def execRxReset (s : State) : Host.Outcome State Fault Refusal := complete .done (bufReset s)

end Sys2Proof.Machine
end

