-- ==== Sys2Proof/Machine/Session.lean ====
section
/-! DEFINITION. The meanings of the Session's operations: connection (R194, R196), polling (R198, R208, R210),
command dispatch (R200 to R206), response dispatch (R212) and subscribers (R214, R215). -/

namespace Sys2Proof.Machine

/-- What a successful open leaves to do in `connect` (R194): `Connected`, the buffer reset, the port recorded,
DeviceState reset when `RESET_DEVSTATE_ON_CONNECT`. -/
def enterConnected (port : String) (s : State) : State :=
  { bufReset s with
    conn := .connected
    port := some port
    dev := if s.params.resetDevStateOnConnect then DeviceState.zero else s.dev }

/-- `connect(port)` (R194): the prior connection is closed, the port opened; the writes before a raised
`ConnectionError` stand (R234). -/
def execConnect (port : String) (outcome : OpenOutcome) (s : State) : Host.Outcome State Fault Refusal :=
  let s := openLine outcome { closeLine s with conn := .connecting }
  match outcome with
  | .ok => complete .done (enterConnected port s)
  | .err msg => raise (.connectionError msg) { s with conn := .disconnected }

/-- `disconnect()` (R196): the schedule is cancelled, the pending confirmation polls too when
`CONFIRM_CANCEL_ON_DISCONNECT`, the line closed. -/
def execDisconnect (s : State) : Host.Outcome State Fault Refusal :=
  complete .done
    { closeLine s with
      pollSched := none
      confirmPending := if s.params.confirmCancelOnDisconnect then Confirms.empty else s.confirmPending
      conn := .disconnected }

/-- `start_polling(interval)` (R198): the schedule is replaced whatever the connection state, then one poll. An
interval outside the operation's domain is refused (D18). -/
def execStartPolling (interval : Option Quantity) (s : State) : Host.Outcome State Fault Refusal :=
  match pollInterval interval with
  | some q => complete .done (poll { s with pollSched := some q })
  | none => .refused .intervalOutsideDomain

/-- `send(ReadValues)` (R200). -/
def execSendReadValues (s : State) : Host.Outcome State Fault Refusal := complete .done (poll s)

/-- `send(SetOutput(b))` (R202): guard, write, optimistic update, confirmation poll. -/
def execSendSetOutput (b : Bool) (s : State) : Host.Outcome State Fault Refusal :=
  if isConnected s then
    let s := writeLine (encodeSetOutput b) s
    complete .done (scheduleConfirm .half { s with dev := { s.dev with outputState := b } })
  else complete .done s

/-- `send(SetVoltage(v))` (R204): range check before the guard (R239); the register takes the requested value, not
the rounded one (R276). -/
def execSendSetVoltage (v : Quantity) (s : State) : Host.Outcome State Fault Refusal :=
  match inRange Config.vMin Config.vMax v with
  | none => raise .rangeError s
  | some q =>
    if isConnected s then
      let s := writeLine (encodeSetVoltage s.params.roundTie q) s
      complete .done (scheduleConfirm .threeTenths { s with dev := { s.dev with setVoltage := q } })
    else complete .done s

/-- `send(SetCurrent(a))` (R206). -/
def execSendSetCurrent (a : Quantity) (s : State) : Host.Outcome State Fault Refusal :=
  match inRange Config.iMin Config.iMax a with
  | none => raise .rangeError s
  | some q =>
    if isConnected s then
      let s := writeLine (encodeSetCurrent s.params.roundTie q) s
      complete .done (scheduleConfirm .threeTenths { s with dev := { s.dev with setCurrent := q } })
    else complete .done s

/-- `poll_tick` (R208): enabled while a schedule is set; a tick offered without one does not occur (log 8). -/
def execPollTick (s : State) : Host.Outcome State Fault Refusal :=
  if pollEnabled s then complete .done (poll s) else complete .done s

/-- `confirm_tick(d)` (R210): the entry is removed whether or not the poll is sent; a tick offered without a
pending entry does not occur (log 8). -/
def execConfirmTick (d : Delay) (s : State) : Host.Outcome State Fault Refusal :=
  if confirmEnabled d s then complete .done (poll (unscheduleConfirm d s)) else complete .done s

/-- `on_response(r)` (R212). -/
def execOnResponse (r : Response) (s : State) : Host.Outcome State Fault Refusal :=
  complete .done (applyResponse r s)

/-- `subscribe(h)` (R214): duplicates are kept (D12). -/
def execSubscribe (h : Handle) (s : State) : Host.Outcome State Fault Refusal :=
  complete .done { s with subs := s.subs ++ [h] }

/-- `notify(v, i, o)` (R215). -/
def execNotify (v i : Rat) (o : Bool) (s : State) : Host.Outcome State Fault Refusal :=
  complete .done (notifyAll v i o s)

end Sys2Proof.Machine
end

