-- ==== Sys2Proof/Machine/Transport.lean ====
section
/-! DEFINITION. The meanings of the Transport's operations (R171 to R174, R177). -/

namespace Sys2Proof.Machine

/-- `t_open(port)` (R171): the environment's answer decides; failure raises `ConnectionError`. The port is opaque
and this operation records it nowhere (R171, D30). -/
def execTOpen (_port : String) (outcome : OpenOutcome) (s : State) : Host.Outcome State Fault Refusal :=
  match outcome with
  | .ok => complete .done (openLine .ok s)
  | .err msg => raise (.connectionError msg) (openLine (.err msg) s)

/-- `t_close` (R172). -/
def execTClose (s : State) : Host.Outcome State Fault Refusal := complete .done (closeLine s)

/-- `t_live` (R173). -/
def execTLive (s : State) : Host.Outcome State Fault Refusal := complete (.flag s.live) s

/-- `t_write(bytes)` (R174). -/
def execTWrite (bytes : List Byte) (s : State) : Host.Outcome State Fault Refusal :=
  complete .done (writeLine bytes s)

/-- `link_loss` (R177): only `live` falls. Not enabled while the line is not live (R236), where it would change
nothing. -/
def execLinkLoss (s : State) : Host.Outcome State Fault Refusal := complete .done { s with live := false }

end Sys2Proof.Machine
end

