-- ==== Sys2Proof/Machine/Dispatch.lean ====
section
/-! DEFINITION. `exec`: one arm per operation of spec/opcode_table.json, each one call of its meaning. -/

namespace Sys2Proof.Machine

def exec (i : Instr) (s : State) : Host.Outcome State Fault Refusal :=
  match i with
  | .readValues => Sys2Proof.Machine.execReadValues s
  | .setOutput b => Sys2Proof.Machine.execSetOutput b s
  | .setVoltage v => Sys2Proof.Machine.execSetVoltage v s
  | .setCurrent a => Sys2Proof.Machine.execSetCurrent a s
  | .statusResponse cand => Sys2Proof.Machine.execStatusResponse cand s
  | .crcSeed => Sys2Proof.Machine.execCrcSeed s
  | .crcBit => Sys2Proof.Machine.execCrcBit s
  | .crcByte b => Sys2Proof.Machine.execCrcByte b s
  | .crc16Modbus bytes => Sys2Proof.Machine.execCrc16Modbus bytes s
  | .crcEmit c => Sys2Proof.Machine.execCrcEmit c s
  | .crcCheck cand => Sys2Proof.Machine.execCrcCheck cand s
  | .rxChunk bytes => Sys2Proof.Machine.execRxChunk bytes s
  | .rxReset => Sys2Proof.Machine.execRxReset s
  | .tOpen port outcome => Sys2Proof.Machine.execTOpen port outcome s
  | .tClose => Sys2Proof.Machine.execTClose s
  | .tLive => Sys2Proof.Machine.execTLive s
  | .tWrite bytes => Sys2Proof.Machine.execTWrite bytes s
  | .linkLoss => Sys2Proof.Machine.execLinkLoss s
  | .connect port outcome => Sys2Proof.Machine.execConnect port outcome s
  | .disconnect => Sys2Proof.Machine.execDisconnect s
  | .startPolling interval => Sys2Proof.Machine.execStartPolling interval s
  | .sendReadValues => Sys2Proof.Machine.execSendReadValues s
  | .sendSetOutput b => Sys2Proof.Machine.execSendSetOutput b s
  | .sendSetVoltage v => Sys2Proof.Machine.execSendSetVoltage v s
  | .sendSetCurrent a => Sys2Proof.Machine.execSendSetCurrent a s
  | .pollTick => Sys2Proof.Machine.execPollTick s
  | .confirmTick d => Sys2Proof.Machine.execConfirmTick d s
  | .onResponse r => Sys2Proof.Machine.execOnResponse r s
  | .subscribe h => Sys2Proof.Machine.execSubscribe h s
  | .notify v a o => Sys2Proof.Machine.execNotify v a o s

end Sys2Proof.Machine
end

