-- ==== Sys2Proof/Machine/Fetch.lean ====
section
/-! DEFINITION. How a step takes its next input. The block has no program counter and fetches nothing (R12): what
takes the place of a fetch is the next event of the environment, at the head of `inputs` (R236, log 3). -/

namespace Sys2Proof.Machine

/-- What the head of `inputs` gives the step. -/
inductive Fetched where
  /-- Nothing is offered: the block is idle (R249, R260). -/
  | idle
  /-- An operation to run, in the state without the input it came from. -/
  | run (i : Instr) (s : State)
  /-- A wire pattern that is no instance of a wire row. -/
  | reject (why : Reject)
  deriving DecidableEq, Repr

/-- The next input is taken off the queue; a wire pattern is decoded. -/
def fetch (s : State) : Fetched :=
  match s.inputs with
  | [] => .idle
  | .op i :: rest => .run i { s with inputs := rest }
  | .frame bytes :: rest =>
    match decodeFrame bytes with
    | .ok i => .run i { s with inputs := rest }
    | .error why => .reject why

end Sys2Proof.Machine
end

