-- ==== Sys2Proof/Machine/Step.lean ====
section
/-! DEFINITION. One step of the block (R250): the next input is taken and its operation runs to completion (R12,
R49). With nothing offered the block is idle and holds all its state (R249). -/

namespace Sys2Proof.Machine

def step (s : State) : Host.Outcome State Fault Refusal :=
  match fetch s with
  | .idle => .next s
  | .run i s' => exec i s'
  | .reject why => .refused (.undecodable why)

/-- The state with the frame whose bits are `w` offered as the very next input. -/
def State.withFetchWord (s : State) (nbits w : Nat) : State :=
  { s with inputs := .frame (frameOfWord nbits w) :: s.inputs }

end Sys2Proof.Machine
end

