-- ==== Sys2Proof/Safety.lean ====
section
/-! DEFINITION. What counts as a sound state of the block between events, and as an enabled event (R236). -/

namespace Sys2Proof.Machine

/-- The resting shape of the receive buffer (R159): it contains no `0xF7` or contains no `0xFD`. -/
def restingBuf (buf : List Byte) : Bool :=
  (first buf Config.addr).isNone || (first buf Config.term).isNone

/-- The value domain of the DeviceState registers (R27): 16-bit counts over 100 and over 1000, and requested values
within `[0, 60]` and `[0, 6]`. -/
def deviceInDomain (d : DeviceState) : Bool :=
  isCount (d.voltage * Config.vScale) && isCount (d.current * Config.iScale) &&
    (inRange Config.vMin Config.vMax (.rational d.setVoltage)).isSome &&
    (inRange Config.iMin Config.iMax (.rational d.setCurrent)).isSome

/-- A set poll interval is a positive number (R16). -/
def pollPositive (sched : Option Rat) : Bool :=
  match sched with
  | none => true
  | some q => decide (0 < q)

/-- The bytes on the line are whole command frames one after the other (R54, R72). -/
inductive WholeFrames : List Byte → Prop where
  | nil : WholeFrames []
  | snoc {t f : List Byte} : WholeFrames t → isCommandFrame f = true → WholeFrames (t ++ f)

/-- The states the block is in between events, when the environment offers external operations only:
`Connecting` is never observed (R14), a live line means `Connected` (R216, R243), the buffer has its canonical form
and its resting shape (R10, R159), the DeviceState registers are in their domain (R27), a poll interval is positive
(R16). -/
def sound (s : State) : Bool :=
  s.conn != .connecting && (!s.live || s.conn == .connected) &&
    Memory.wf s.params.rxBufCap s.buf && restingBuf s.buf && deviceInDomain s.dev &&
    pollPositive s.pollSched && s.inputs.all (·.isExternal)

/-- Which operations R236 lists as events, and when each is enabled; `t_live` is a host operation of R88. -/
def enabled (s : State) (i : Instr) : Bool :=
  match i with
  | .rxChunk _ => s.live
  | .pollTick => pollEnabled s
  | .confirmTick d => confirmEnabled d s
  | .linkLoss => s.live
  | .connect _ _ => true
  | .disconnect => true
  | .startPolling _ => true
  | .sendReadValues => true
  | .sendSetOutput _ => true
  | .sendSetVoltage _ => true
  | .sendSetCurrent _ => true
  | .subscribe _ => true
  | .tLive => true
  | .readValues => false
  | .setOutput _ => false
  | .setVoltage _ => false
  | .setCurrent _ => false
  | .statusResponse _ => false
  | .crcSeed => false
  | .crcBit => false
  | .crcByte _ => false
  | .crc16Modbus _ => false
  | .crcEmit _ => false
  | .crcCheck _ => false
  | .rxReset => false
  | .tOpen _ _ => false
  | .tClose => false
  | .tWrite _ => false
  | .onResponse _ => false
  | .notify _ _ _ => false

end Sys2Proof.Machine
end

