-- ==== Sys2Proof/Certificates/Slice0/Obligations.lean ====
section
/-! DEFINITION. What is to be proved of the model: each definition is one statement, its docstring names the rules
it comes from. A full record update `{ s with … }` states the effect and the frame at once: every register, every
byte of the buffer and every history that is not named is unchanged. -/

open Sys2Proof Sys2Proof.Machine

/-! ### The Frame Codec -/

/-- R120: `encode(ReadValues)` is the constant 8-byte frame, and writes no register. -/
def Obligations.EncodeReadValuesFrame : Prop :=
  ∀ s : State, exec .readValues s =
    .next { s with result := .bytes [0xF7, 0x01, 0x03, 0x04, 0x03, 0x62, 0xE8, 0xFD] }

/-- R121: the only two results of `encode(SetOutput(b))`. -/
def Obligations.EncodeSetOutputFrame : Prop :=
  ∀ (b : Bool) (s : State), exec (.setOutput b) s =
    .next { s with
      result := .bytes
        (if b then [0xF7, 0x01, 0x0A, 0x1E, 0x01, 0x00, 0x01, 0x92, 0x37, 0xFD]
         else [0xF7, 0x01, 0x0A, 0x1E, 0x01, 0x00, 0x00, 0x53, 0xF7, 0xFD]) }

/-- R122 with R124, R125: `encode(SetVoltage(v))` completes for every rational `v`; the count is the nearest integer
to `100 v`, saturated to 16 bits, high byte first, followed by the CRC low byte first and the terminator. Exact
arithmetic and saturation are the spec's choices D5 and D6. -/
def Obligations.EncodeSetVoltageFrame : Prop :=
  ∀ (v : Rat) (s : State), ∃ n : Word,
    (v * 100 < 0 → n = 0) ∧ (65535 < v * 100 → n = 65535) ∧
    (0 ≤ v * 100 → v * 100 ≤ 65535 → |(n.toNat : Rat) - v * 100| ≤ 1 / 2) ∧
    exec (.setVoltage v) s =
      .next { s with
      result := .bytes
        ([0xF7, 0x01, 0x0A, 0x09, 0x01, BitVec.ofNat 8 (n.toNat / 256), BitVec.ofNat 8 (n.toNat % 256)] ++
          crcEmitBytes (crc16 [0xF7, 0x01, 0x0A, 0x09, 0x01, BitVec.ofNat 8 (n.toNat / 256),
            BitVec.ofNat 8 (n.toNat % 256)]) ++ [0xFD]) }

/-- R123 with R124, R125: `encode(SetCurrent(a))`, the count being the nearest integer to `1000 a`. Exact arithmetic
and saturation are the spec's choices D5 and D6. -/
def Obligations.EncodeSetCurrentFrame : Prop :=
  ∀ (a : Rat) (s : State), ∃ n : Word,
    (a * 1000 < 0 → n = 0) ∧ (65535 < a * 1000 → n = 65535) ∧
    (0 ≤ a * 1000 → a * 1000 ≤ 65535 → |(n.toNat : Rat) - a * 1000| ≤ 1 / 2) ∧
    exec (.setCurrent a) s =
      .next { s with
      result := .bytes
        ([0xF7, 0x01, 0x0A, 0x0A, 0x01, BitVec.ofNat 8 (n.toNat / 256), BitVec.ofNat 8 (n.toNat % 256)] ++
          crcEmitBytes (crc16 [0xF7, 0x01, 0x0A, 0x0A, 0x01, BitVec.ofNat 8 (n.toNat / 256),
            BitVec.ofNat 8 (n.toNat % 256)]) ++ [0xFD]) }

/-- R124: `round` is within one half of its argument for every tie rule, and under the default rule it is `floor(x +
1/2)` for `x >= 0` and its mirror image below. The default tie rule is the spec's choice D5. -/
def Obligations.RoundingIsNearestHalfAwayFromZero : Prop :=
  (∀ (tie : RoundTie) (x : Rat), |(roundRat tie x : Rat) - x| ≤ 1 / 2) ∧
  (∀ x : Rat, 0 ≤ x → roundRat .halfAwayFromZero x = (x + 1 / 2).floor) ∧
  (∀ x : Rat, x < 0 → roundRat .halfAwayFromZero x = -((-x + 1 / 2).floor))

/-- R134: on the device's grid the count of a requested value reads back as exactly that value, whatever the tie rule;
off the grid the error is at most half a count. Exact arithmetic is the spec's choice D5; the law is its own inference
from R124, R127, R131. -/
def Obligations.ScalingRoundTrip : Prop :=
  ∀ tie : RoundTie,
    (∀ n : Nat, n ≤ 6000 →
      (scale16 tie ((n : Rat) / 100) 100).toNat = n ∧ (scale16 tie ((n : Rat) / 1000) 1000).toNat = n) ∧
    (∀ v : Rat, 0 ≤ v → v ≤ 60 →
      |((be16 (hi8 (scale16 tie v 100)) (lo8 (scale16 tie v 100))).toNat : Rat) / 100 - v| ≤ 1 / 200) ∧
    (∀ a : Rat, 0 ≤ a → a ≤ 6 →
      |((be16 (hi8 (scale16 tie a 1000)) (lo8 (scale16 tie a 1000))).toNat : Rat) / 1000 - a| ≤ 1 / 2000)

/-- R80: the measurement in a 14-byte candidate with both markers in place, whatever stands in the other bytes, when
received CRCs are not verified. -/
def Obligations.DecodeReadsMeasurementFields : Prop :=
  ∀ (s : State) (b1 b2 b3 b4 b5 b6 b7 b8 b9 b10 b11 b12 : Byte),
    s.params.verifyRxCrc = false →
    exec (.statusResponse [0xF7, b1, b2, b3, b4, b5, b6, b7, b8, b9, b10, b11, b12, 0xFD]) s =
      .next { s with
      result := .decoded (some
        { outputState := b5.getLsbD 5
          voltage := (256 * b7.toNat + b8.toNat : Rat) / 100
          current := (256 * b9.toNat + b10.toNat : Rat) / 1000 }) }

/-- R110 in R130: with `VERIFY_RX_CRC` a candidate decodes exactly when its bytes 11 and 12 are the CRC of its first
eleven bytes, low byte first. The parameter and the test are the spec's choice D3, the longer candidates its D20. -/
def Obligations.DecodeVerifiesCrcWhenAsked : Prop :=
  ∀ (s : State) (b1 b2 b3 b4 b5 b6 b7 b8 b9 b10 b11 b12 : Byte) (rest : List Byte),
    s.params.verifyRxCrc = true →
    exec (.statusResponse ([0xF7, b1, b2, b3, b4, b5, b6, b7, b8, b9, b10, b11, b12, 0xFD] ++ rest)) s =
      .next { s with
      result := .decoded
        (if b11 = lo8 (crc16 [0xF7, b1, b2, b3, b4, b5, b6, b7, b8, b9, b10]) ∧
            b12 = hi8 (crc16 [0xF7, b1, b2, b3, b4, b5, b6, b7, b8, b9, b10]) then
          some { outputState := b5.getLsbD 5
                 voltage := (256 * b7.toNat + b8.toNat : Rat) / 100
                 current := (256 * b9.toNat + b10.toNat : Rat) / 1000 }
         else none) }

/-- R130, R83: a candidate that is short, does not start `0xF7` or has no `0xFD` at index 13 gives `none`, an
ordinary result that changes no register. -/
def Obligations.DecodeDropsMalformedCandidates : Prop :=
  ∀ (s : State) (cand : List Byte),
    (cand.length < 14 ∨ cand[0]? ≠ some 0xF7 ∨ cand[13]? ≠ some 0xFD) →
    exec (.statusResponse cand) s = .next { s with result := .decoded none }

/-- R82, R132, R133 (c): decode gives the same result for candidates that differ only in bytes 1 to 4, 6, 11, 12, in
the bits of byte 5 other than bit 5, or beyond index 13 (the spec's D20), when received CRCs are not verified. -/
def Obligations.DecodeIgnoresUnexaminedBits : Prop :=
  ∀ (s : State) (cand cand' : List Byte), s.params.verifyRxCrc = false → 14 ≤ cand.length → 14 ≤ cand'.length →
    (∀ i ∈ [0, 7, 8, 9, 10, 13], cand[i]? = cand'[i]?) →
    (∀ b b' : Byte, cand[5]? = some b → cand'[5]? = some b' → b.getLsbD 5 = b'.getLsbD 5) →
    ∃ r : Option Response,
      exec (.statusResponse cand) s = .next { s with result := .decoded r } ∧
      exec (.statusResponse cand') s = .next { s with result := .decoded r }

/-- R133 (b): the block never mistakes an echo of its own command for a response. The spec's own inference from R128
and R130. -/
def Obligations.CommandFramesNeverDecode : Prop :=
  ∀ (verify : Bool) (tie : RoundTie) (i : Instr) (f : List Byte),
    encode tie i = some f → (∀ cand, i ≠ .statusResponse cand) → decodeCandidate verify f = none

/-- R128 (c): the CRC over a sent frame without its terminator is zero. The spec's own inference from R120 to R127. -/
def Obligations.SentFramesHaveZeroResidue : Prop :=
  ∀ (tie : RoundTie) (i : Instr) (f : List Byte),
    encode tie i = some f → (∀ cand, i ≠ .statusResponse cand) → crc16 f.dropLast = 0

/-- R90, R134: decoding the frame of an operation gives the operation back, with every operand at every value the
frame carries exactly. -/
def Obligations.DecodeEncodeRoundTrip : Prop :=
  ∀ (tie : RoundTie) (i : Instr), i.onGrid = true →
    ∃ f, encode tie i = some f ∧ decodeFrame f = .ok i

/-- R90, R70: re-encoding a decoded command keeps every payload byte and puts the one right CRC, whatever CRC bytes
the frame had; a decoded response is its own encoding. -/
def Obligations.ReencodingKeepsPayload : Prop :=
  ∀ (tie : RoundTie) (f : List Byte) (i : Instr), decodeFrame f = .ok i →
    encode tie i = some (if f.length = 14 then f
      else f.take (f.length - 3) ++ crcEmitBytes (crc16 (f.take (f.length - 3))) ++ [0xFD])

/-- R90: no byte sequence is an instance of two rows of the opcode table. -/
def Obligations.WireRowsAreDisjoint : Prop :=
  ∀ r ∈ wireTable, ∀ r' ∈ wireTable, ∀ f : List Byte,
    r.isInstance f = true → r'.isInstance f = true → r = r'

/-- What has no length, address byte or terminator of R70 and R71 is no frame of the table. The names under which the
decoder rejects it, and the order in which it looks, are the model's choice (log 13), not the spec's. -/
def Obligations.NonFramesRejectedByName : Prop :=
  ∀ f : List Byte,
    (f.length ≠ 8 → f.length ≠ 10 → f.length ≠ 14 → decodeFrame f = .error .badLength) ∧
    ((f.length = 8 ∨ f.length = 10 ∨ f.length = 14) → f.head? ≠ some 0xF7 → decodeFrame f = .error .badAddress) ∧
    ((f.length = 8 ∨ f.length = 10 ∨ f.length = 14) → f.head? = some 0xF7 → f.getLast? ≠ some 0xFD →
      decodeFrame f = .error .badTerminator)

/-- R73, R74: words written out from the spec's encodings of the commands decode to the operations they stand for. In
the last clause the numbering of the bits, first byte lowest, is the model's choice (log 24). -/
def Obligations.SpecFramesDecode : Prop :=
  decodeFrame [0xF7, 0x01, 0x03, 0x04, 0x03, 0x62, 0xE8, 0xFD] = .ok .readValues ∧
  decodeFrame [0xF7, 0x01, 0x0A, 0x1E, 0x01, 0x00, 0x01, 0x92, 0x37, 0xFD] = .ok (.setOutput true) ∧
  decodeFrame [0xF7, 0x01, 0x0A, 0x09, 0x01, 0x02, 0x02, 0xD6, 0xE2, 0xFD] = .ok (.setVoltage (514 / 100)) ∧
  decodeFrame [0xF7, 0x01, 0x0A, 0x0A, 0x01, 0x00, 0xC8, 0x57, 0x91, 0xFD] = .ok (.setCurrent (200 / 1000)) ∧
  decodeTableWord 64 0xFDE86203040301F7 = some .readValues

/-! ### The Checksum unit -/

/-- R101. -/
def Obligations.CrcSeedLoadsSeed : Prop :=
  ∀ s : State, exec .crcSeed s = .next { s with crc := 0xFFFF, result := .done }

/-- R102: bit 0 decides before the shift; the shift is logical; the XOR acts on the shifted value. -/
def Obligations.CrcBitShiftsAndXors : Prop :=
  ∀ s : State, exec .crcBit s =
    .next { s with
      crc := if s.crc.toNat % 2 = 1 then BitVec.ofNat 16 (s.crc.toNat / 2) ^^^ 0xA001
             else BitVec.ofNat 16 (s.crc.toNat / 2)
      result := .done }

/-- R103: `crc_byte(b)` is the XOR of the whole byte into the low bits, then eight `crc_bit`. -/
def Obligations.CrcByteIsEightCrcBits : Prop :=
  ∀ (b : Byte) (s : State), exec (.crcByte b) s =
    .next { s with
      crc := (fun c : Word => if c.getLsbD 0 then (c >>> 1) ^^^ 0xA001 else c >>> 1)^[8] (s.crc ^^^ b.setWidth 16)
      result := .done }

/-- R104: the result is the register's final value; the empty sequence gives the seed, and one more byte is one more
`crc_byte` on what was reached before, in sequence order. That no final step follows is the spec's own inference from
its source; that the register keeps the result is DEDUCED (log 10). -/
def Obligations.CrcModbusFoldsBytesInOrder : Prop :=
  ∀ (bytes : List Byte) (s : State), ∃ c : Word,
    exec (.crc16Modbus bytes) s = .next { s with crc := c, result := .word c } ∧
    (bytes = [] → c = 0xFFFF) ∧
    ∀ (b : Byte) (t : State), exec (.crcByte b) { s with crc := c } = .next t →
      exec (.crc16Modbus (bytes ++ [b])) s = .next { t with result := .word t.crc }

/-- R108: the CRC of a message followed by its own emitted CRC is zero. The spec's own inference from R102 to R105. -/
def Obligations.CrcResidueIsZero : Prop :=
  ∀ (m : List Byte) (s : State),
    exec (.crc16Modbus (m ++ crcEmitBytes (crc16 m))) s = .next { s with crc := 0, result := .word 0 }

/-- R105: low byte, then high byte. -/
def Obligations.CrcEmitLowByteFirst : Prop :=
  ∀ (c : Word) (s : State), exec (.crcEmit c) s =
    .next { s with result := .bytes [BitVec.ofNat 8 (c.toNat % 256), BitVec.ofNat 8 (c.toNat / 256)] }

/-- R110: the answer of `crc_check`, which changes no register. On fewer than 14 bytes, for which R110 states no result,
it completes too, with an answer nothing is said about (the model's choice, log 12). The operation is the spec's choice
D3. -/
def Obligations.CrcCheckComparesTrailer : Prop :=
  (∀ (s : State) (b0 b1 b2 b3 b4 b5 b6 b7 b8 b9 b10 b11 b12 b13 : Byte) (rest : List Byte),
    exec (.crcCheck ([b0, b1, b2, b3, b4, b5, b6, b7, b8, b9, b10, b11, b12, b13] ++ rest)) s =
      .next { s with
      result := .flag
        (b11 == lo8 (crc16 [b0, b1, b2, b3, b4, b5, b6, b7, b8, b9, b10]) &&
         b12 == hi8 (crc16 [b0, b1, b2, b3, b4, b5, b6, b7, b8, b9, b10])) }) ∧
  (∀ (s : State) (cand : List Byte), cand.length < 14 →
    ∃ b : Bool, exec (.crcCheck cand) s = .next { s with result := .flag b })

/-! ### The Stream Reassembler -/

/-- R151, R152, R155: while both markers stand in the appended buffer, the first of each cuts the candidate, a decoded
response goes to `on_response`, everything up to the `0xFD` is removed and the loop goes on; when a marker is missing
the bytes stay. The empty candidate of an inverted range is the spec's choice D4, the order of hand-over and removal
its D29. -/
def Obligations.RxLoopExtractsAtFirstMarkers : Prop :=
  ∀ (bytes : List Byte) (s : State), s.live = true →
    fitsCap s.params.rxBufCap (s.buf.length + bytes.length) = true →
    (∀ (a e : Nat) (u : State), first (s.buf ++ bytes) 0xF7 = some a → first (s.buf ++ bytes) 0xFD = some e →
      (match decodeCandidate s.params.verifyRxCrc (slice (s.buf ++ bytes) a e) with
       | some r => exec (.onResponse r) s = .next u
       | none => u = s) →
      exec (.rxChunk bytes) s = exec (.rxChunk []) { u with buf := (s.buf ++ bytes).drop (e + 1) }) ∧
    ((0xF7 ∉ s.buf ++ bytes ∨ 0xFD ∉ s.buf ++ bytes) →
      exec (.rxChunk bytes) s = .next { s with buf := s.buf ++ bytes, result := .done })

/-- R159 and the frame of `rx_chunk` (R11): it ends with the buffer a resting suffix of what was appended; only the
three measurement registers and the notifications can change besides, and notifications are only added. The resting
shape is the spec's own inference. -/
def Obligations.RxChunkEndsRestingAndFrames : Prop :=
  ∀ (bytes : List Byte) (s : State), s.live = true → fitsCap s.params.rxBufCap (s.buf.length + bytes.length) = true →
    ∃ (t : State) (k : Nat) (ns : List Notification),
      exec (.rxChunk bytes) s = .next t ∧
      (0xF7 ∉ t.buf ∨ 0xFD ∉ t.buf) ∧
      (∀ i, bufByte t i = (s.buf ++ bytes)[k + i]?) ∧
      t.notifications = s.notifications ++ ns ∧
      t = { s with
            buf := t.buf
            dev := { t.dev with setVoltage := s.dev.setVoltage, setCurrent := s.dev.setCurrent }
            notifications := t.notifications
            result := .done }

/-- R160: only a candidate of exactly 14 bytes can decode. The spec's own inference from R152 and R130. -/
def Obligations.OnlyFourteenByteCandidatesDecode : Prop :=
  ∀ (verify : Bool) (buf : List Byte) (a e : Nat) (r : Response),
    first buf 0xF7 = some a → first buf 0xFD = some e →
    decodeCandidate verify (slice buf a e) = some r → e = a + 13 ∧ (slice buf a e).length = 14

/-- R153, R162 (a): garbage without a `0xF7`, with any number of `0xFD` in it, followed by a frame whose inner bytes
are not `0xFD`, yields exactly that one response, applied and notified, and an empty buffer. The inverted range is the
spec's choice D4. -/
def Obligations.RxGarbageThenFrameDecodesOnce : Prop :=
  ∀ (s : State) (g : List Byte) (b1 b2 b3 b4 b5 b6 b7 b8 b9 b10 b11 b12 : Byte),
    s.live = true → fitsCap s.params.rxBufCap (s.buf.length + (g.length + 14)) = true →
    s.params.verifyRxCrc = false → 0xF7 ∉ s.buf ++ g →
    0xFD ∉ [b1, b2, b3, b4, b5, b6, b7, b8, b9, b10, b11, b12] →
    exec (.rxChunk (g ++ [0xF7, b1, b2, b3, b4, b5, b6, b7, b8, b9, b10, b11, b12, 0xFD])) s =
      .next { s with
        buf := []
        dev := { s.dev with
                 voltage := (256 * b7.toNat + b8.toNat : Rat) / 100
                 current := (256 * b9.toNat + b10.toNat : Rat) / 1000
                 outputState := b5.getLsbD 5 }
        notifications := s.notifications ++ s.subs.map fun h =>
          { handler := h
            voltage := (256 * b7.toNat + b8.toNat : Rat) / 100
            current := (256 * b9.toNat + b10.toNat : Rat) / 1000
            outputState := b5.getLsbD 5 }
        result := .done }

/-- R160, R267: a stale `0xF7` in the buffer loses the next frame whole; the buffer is clean afterwards. The spec's
own inference. -/
def Obligations.RxStrayStartLosesNextFrame : Prop :=
  ∀ (s : State) (b1 b2 b3 b4 b5 b6 b7 b8 b9 b10 b11 b12 : Byte),
    s.live = true → fitsCap s.params.rxBufCap (s.buf.length + 14) = true → 0xF7 ∈ s.buf → 0xFD ∉ s.buf →
    0xFD ∉ [b1, b2, b3, b4, b5, b6, b7, b8, b9, b10, b11, b12] →
    exec (.rxChunk [0xF7, b1, b2, b3, b4, b5, b6, b7, b8, b9, b10, b11, b12, 0xFD]) s =
      .next { s with buf := [], result := .done }

/-- R266: a response whose bytes 1 to 12 contain `0xFD` is never decoded: not after an empty buffer, and not after any
bytes without a `0xF7`, such as the tail that the last such response left. (After a `0xF7` the candidate starts there and
is no longer that response.) The spec's own inference from R152 and R160. -/
def Obligations.RxTerminatorInDataLosesFrame : Prop :=
  ∀ (s : State) (b1 b2 b3 b4 b5 b6 b7 b8 b9 b10 b11 b12 : Byte),
    s.live = true → fitsCap s.params.rxBufCap (s.buf.length + 14) = true → 0xF7 ∉ s.buf →
    0xFD ∈ [b1, b2, b3, b4, b5, b6, b7, b8, b9, b10, b11, b12] →
    ∃ rest : List Byte,
      exec (.rxChunk [0xF7, b1, b2, b3, b4, b5, b6, b7, b8, b9, b10, b11, b12, 0xFD]) s =
        .next { s with buf := rest, result := .done }

/-- R161: the result does not depend on where the stream is cut into chunks, whenever the capacity admits the whole of
it. The spec's own inference from R150 to R155. -/
def Obligations.RxChunkBoundariesDoNotMatter : Prop :=
  ∀ (x y : List Byte) (s : State),
    (s.live = true → fitsCap s.params.rxBufCap (s.buf.length + (x ++ y).length) = true) →
    ∃ t, exec (.rxChunk x) s = .next t ∧ exec (.rxChunk y) t = exec (.rxChunk (x ++ y)) s

/-- R43 (D15): an append beyond a finite capacity is refused. -/
def Obligations.RxOverflowRefused : Prop :=
  ∀ (bytes : List Byte) (s : State) (cap : Nat), s.live = true → s.params.rxBufCap = some cap →
    cap < s.buf.length + bytes.length → exec (.rxChunk bytes) s = .refused .rxBufOverflow

/-- R158: `rx_reset` empties the buffer and changes nothing else. -/
def Obligations.RxResetEmptiesBuffer : Prop :=
  ∀ s : State, exec .rxReset s = .next { s with buf := [], result := .done }

/-! ### The Transport -/

/-- R171: the environment's answer decides `live`; a failure raises `ConnectionError` with its message. That the
outcome is the environment's is the spec's choice D30 (log 15). -/
def Obligations.TOpenFollowsOutcome : Prop :=
  ∀ (port : String) (s : State),
    exec (.tOpen port .ok) s = .next { s with live := true, result := .done } ∧
    ∀ msg : String, exec (.tOpen port (.err msg)) s =
      .next { s with live := false, result := .raised (.connectionError msg) }

/-- R172, R177: `t_close` and `link_loss` lower `live` and change nothing else. The event `link_loss` is the spec's
choice D26. -/
def Obligations.CloseAndLinkLossLowerLive : Prop :=
  ∀ s : State,
    exec .tClose s = .next { s with live := false, result := .done } ∧
    exec .linkLoss s = .next { s with live := false, result := .done }

/-- R173: `t_live` reports `live` and changes nothing. -/
def Obligations.TLiveReportsLive : Prop :=
  ∀ s : State, exec .tLive s = .next { s with result := .flag s.live }

/-- R174: the bytes go onto the line in order when it is live, else nothing. -/
def Obligations.TWriteAppendsWhenLive : Prop :=
  ∀ (bytes : List Byte) (s : State),
    (s.live = true → exec (.tWrite bytes) s = .next { s with tx := s.tx ++ bytes, result := .done }) ∧
    (s.live = false → exec (.tWrite bytes) s = .next { s with result := .done })

/-- R176: without a live connection `t_close`, `t_write` and receipt do nothing, and `t_live` answers `false`; in
no state does any of them raise an error. -/
def Obligations.TransportNoOpsWhenNotLive : Prop :=
  ∀ (bytes : List Byte) (s : State),
    (s.live = false →
      exec .tClose s = .next { s with result := .done } ∧
      exec (.tWrite bytes) s = .next { s with result := .done } ∧
      exec (.rxChunk bytes) s = .next { s with result := .done } ∧
      exec .tLive s = .next { s with result := .flag false }) ∧
    ∀ (i : Instr) (t : State) (e : Error), (i = .tClose ∨ i = .tWrite bytes ∨ i = .rxChunk bytes ∨ i = .tLive) →
      exec i s = .next t → t.result ≠ .raised e

/-! ### The Session -/

/-- R194, R262, R263: `connect` from any state, with either answer to the open; the values of the DeviceState reset
are the spec's own choice (D9). What `connect` leaves alone is its D22. -/
def Obligations.ConnectFollowsOutcome : Prop :=
  ∀ (port : String) (s : State),
    exec (.connect port .ok) s =
      .next { s with
        live := true, conn := .connected, buf := [], port := some port
        dev := if s.params.resetDevStateOnConnect then
            { voltage := 0, current := 0, outputState := false, setVoltage := 0, setCurrent := 0 } else s.dev
        result := .done } ∧
    ∀ msg : String, exec (.connect port (.err msg)) s =
      .next { s with live := false, conn := .disconnected, result := .raised (.connectionError msg) }

/-- R196: the effect of `disconnect`, and that a second one changes nothing. The fate of the confirmation polls is the
spec's choice D11. -/
def Obligations.DisconnectIsIdempotent : Prop :=
  ∀ s : State, ∃ t : State,
    t = { s with
          live := false, conn := .disconnected, pollSched := none
          confirmPending := if s.params.confirmCancelOnDisconnect then { half := 0, threeTenths := 0 }
            else s.confirmPending
          result := .done } ∧
    exec .disconnect s = .next t ∧ exec .disconnect t = .next t

/-- R198: the schedule is set in every connection state, then one poll is sent when connected; an interval outside the
domain is refused (D18). What counts as connected is its D8. -/
def Obligations.StartPollingSchedulesAndPolls : Prop :=
  ∀ s : State,
    (∀ (interval : Option Quantity) (q : Rat),
      (interval = none ∧ q = 1) ∨ (interval = some (.rational q) ∧ 0 < q) →
      exec (.startPolling interval) s =
        .next { s with
          pollSched := some q
          tx := if s.conn = .connected ∧ s.live = true then
              s.tx ++ [0xF7, 0x01, 0x03, 0x04, 0x03, 0x62, 0xE8, 0xFD] else s.tx
          result := .done }) ∧
    (∀ q : Rat, q ≤ 0 → exec (.startPolling (some (.rational q))) s = .refused .intervalOutsideDomain) ∧
    exec (.startPolling (some .notANumber)) s = .refused .intervalOutsideDomain

/-- R200: `send(ReadValues)` writes the constant frame when connected and is a no-op when not. What counts as
connected is the spec's choice D8 (R192). -/
def Obligations.SendReadValuesWritesPoll : Prop :=
  ∀ s : State,
    (s.conn = .connected → s.live = true → exec .sendReadValues s =
      .next { s with tx := s.tx ++ [0xF7, 0x01, 0x03, 0x04, 0x03, 0x62, 0xE8, 0xFD], result := .done }) ∧
    (¬(s.conn = .connected ∧ s.live = true) → exec .sendReadValues s = .next { s with result := .done })

/-- R202: write, optimistic update by assignment, one confirmation poll of `0.5`; no notification; a no-op when not
connected. What counts as connected is the spec's choice D8, the independent entries its D11. -/
def Obligations.SendSetOutputUpdatesOptimistically : Prop :=
  ∀ (b : Bool) (s : State),
    (s.conn = .connected → s.live = true → exec (.sendSetOutput b) s =
      .next { s with
        tx := s.tx ++ (if b then [0xF7, 0x01, 0x0A, 0x1E, 0x01, 0x00, 0x01, 0x92, 0x37, 0xFD]
          else [0xF7, 0x01, 0x0A, 0x1E, 0x01, 0x00, 0x00, 0x53, 0xF7, 0xFD])
        dev := { s.dev with outputState := b }
        confirmPending := { s.confirmPending with half := s.confirmPending.half + 1 }
        result := .done }) ∧
    (¬(s.conn = .connected ∧ s.live = true) → exec (.sendSetOutput b) s = .next { s with result := .done })

/-- R204, R276: an accepted `send(SetVoltage(v))` on a live connection sends the nearest count, records the value as
asked, and schedules one confirmation poll of `0.3`. Exact arithmetic, the closed range, the guard and the independent
entries are the spec's choices D5, D7, D8, D11. -/
def Obligations.SendSetVoltageSendsAndRecords : Prop :=
  ∀ (v : Rat) (s : State), s.conn = .connected → s.live = true → 0 ≤ v → v ≤ 60 →
    ∃ n : Nat, n ≤ 6000 ∧ |(n : Rat) - v * 100| ≤ 1 / 2 ∧
      exec (.sendSetVoltage (.rational v)) s =
        .next { s with
          tx := s.tx ++
            ([0xF7, 0x01, 0x0A, 0x09, 0x01, BitVec.ofNat 8 (n / 256), BitVec.ofNat 8 (n % 256)] ++
              crcEmitBytes (crc16 [0xF7, 0x01, 0x0A, 0x09, 0x01, BitVec.ofNat 8 (n / 256), BitVec.ofNat 8 (n % 256)]) ++
              [0xFD])
          dev := { s.dev with setVoltage := v }
          confirmPending := { s.confirmPending with threeTenths := s.confirmPending.threeTenths + 1 }
          result := .done }

/-- R206: the same for `send(SetCurrent(a))`. The spec's choices D5, D7, D8, D11, as there. -/
def Obligations.SendSetCurrentSendsAndRecords : Prop :=
  ∀ (a : Rat) (s : State), s.conn = .connected → s.live = true → 0 ≤ a → a ≤ 6 →
    ∃ n : Nat, n ≤ 6000 ∧ |(n : Rat) - a * 1000| ≤ 1 / 2 ∧
      exec (.sendSetCurrent (.rational a)) s =
        .next { s with
          tx := s.tx ++
            ([0xF7, 0x01, 0x0A, 0x0A, 0x01, BitVec.ofNat 8 (n / 256), BitVec.ofNat 8 (n % 256)] ++
              crcEmitBytes (crc16 [0xF7, 0x01, 0x0A, 0x0A, 0x01, BitVec.ofNat 8 (n / 256), BitVec.ofNat 8 (n % 256)]) ++
              [0xFD])
          dev := { s.dev with setCurrent := a }
          confirmPending := { s.confirmPending with threeTenths := s.confirmPending.threeTenths + 1 }
          result := .done }

/-- R232, R239: an operand outside the accepted range, or not a number (D7), raises `RangeError` whether or not the
Session is connected, and nothing else happens; no operand inside the range, and no other command, raises it. -/
def Obligations.RangeErrorIsPrecise : Prop :=
  ∀ s : State,
    (∀ v : Rat, (v < 0 ∨ 60 < v) → exec (.sendSetVoltage (.rational v)) s = .next { s with result := .raised .rangeError }) ∧
    (∀ a : Rat, (a < 0 ∨ 6 < a) → exec (.sendSetCurrent (.rational a)) s = .next { s with result := .raised .rangeError }) ∧
    exec (.sendSetVoltage .notANumber) s = .next { s with result := .raised .rangeError } ∧
    exec (.sendSetCurrent .notANumber) s = .next { s with result := .raised .rangeError } ∧
    (∀ (v : Rat) (t : State), 0 ≤ v → v ≤ 60 → exec (.sendSetVoltage (.rational v)) s = .next t → t.result = .done) ∧
    (∀ (a : Rat) (t : State), 0 ≤ a → a ≤ 6 → exec (.sendSetCurrent (.rational a)) s = .next t → t.result = .done) ∧
    (∀ (b : Bool) (t : State), exec (.sendSetOutput b) s = .next t → t.result = .done) ∧
    (∀ t : State, exec .sendReadValues s = .next t → t.result = .done)

/-- R199, R204, R206: an operand in range while not connected is a silent no-op. The order of the checks and the guard
are the spec's choices D7, D8. -/
def Obligations.SetInRangeWithoutConnectionIsNoOp : Prop :=
  ∀ s : State, ¬(s.conn = .connected ∧ s.live = true) →
    (∀ v : Rat, 0 ≤ v → v ≤ 60 → exec (.sendSetVoltage (.rational v)) s = .next { s with result := .done }) ∧
    (∀ a : Rat, 0 ≤ a → a ≤ 6 → exec (.sendSetCurrent (.rational a)) s = .next { s with result := .done })

/-- R208: a tick of a set schedule is one poll and leaves the schedule; a tick offered without a schedule passes
without effect (the model's choice, log 8: R236 does not enable it). That a tick may come at any time is the spec's
choice D19. -/
def Obligations.PollTickPollsWhileScheduled : Prop :=
  ∀ s : State,
    (∀ q : Rat, s.pollSched = some q → exec .pollTick s =
      .next { s with
        tx := if s.conn = .connected ∧ s.live = true then
            s.tx ++ [0xF7, 0x01, 0x03, 0x04, 0x03, 0x62, 0xE8, 0xFD] else s.tx
        result := .done }) ∧
    (s.pollSched = none → exec .pollTick s = .next { s with result := .done })

/-- R210: a pending entry fires once: it is removed, then one poll; the entry goes also when the poll is a no-op. A
tick offered without a pending entry passes without effect (the model's choice, log 8). The independent one-shot
entries are the spec's choice D11. -/
def Obligations.ConfirmTickFiresOnce : Prop :=
  ∀ s : State,
    (0 < s.confirmPending.half → exec (.confirmTick .half) s =
      .next { s with
        confirmPending := { s.confirmPending with half := s.confirmPending.half - 1 }
        tx := if s.conn = .connected ∧ s.live = true then
            s.tx ++ [0xF7, 0x01, 0x03, 0x04, 0x03, 0x62, 0xE8, 0xFD] else s.tx
        result := .done }) ∧
    (0 < s.confirmPending.threeTenths → exec (.confirmTick .threeTenths) s =
      .next { s with
        confirmPending := { s.confirmPending with threeTenths := s.confirmPending.threeTenths - 1 }
        tx := if s.conn = .connected ∧ s.live = true then
            s.tx ++ [0xF7, 0x01, 0x03, 0x04, 0x03, 0x62, 0xE8, 0xFD] else s.tx
        result := .done }) ∧
    (s.confirmPending.half = 0 → exec (.confirmTick .half) s = .next { s with result := .done }) ∧
    (s.confirmPending.threeTenths = 0 → exec (.confirmTick .threeTenths) s = .next { s with result := .done })

/-- R212: the three measurement registers are overwritten, then every subscriber is called with the triple; the
requested values stay. The list order and the powerless handlers are the spec's choices D12, D27. -/
def Obligations.OnResponseAppliesAndNotifies : Prop :=
  ∀ (r : Response) (s : State), exec (.onResponse r) s =
    .next { s with
      dev := { s.dev with voltage := r.voltage, current := r.current, outputState := r.outputState }
      notifications := s.notifications ++ s.subs.map fun h =>
        { handler := h, voltage := r.voltage, current := r.current, outputState := r.outputState }
      result := .done }

/-- R214, R215: `subscribe` appends, keeping duplicates; `notify` calls each subscriber in registration order. The
spec's choices D12 and D27. -/
def Obligations.SubscribersCalledInOrder : Prop :=
  ∀ (s : State),
    (∀ h : Handle, exec (.subscribe h) s = .next { s with subs := s.subs ++ [h], result := .done }) ∧
    (∀ (v i : Rat) (o : Bool), exec (.notify v i o) s =
      .next { s with
        notifications := s.notifications ++ s.subs.map fun h =>
          { handler := h, voltage := v, current := i, outputState := o }
        result := .done })

/-! ### The whole machine -/

/-- R12, R236, R250: a step runs the operation at the head of the inputs, in the state with that input taken off;
nothing offered is idleness (R249). The queue of inputs (log 3), a wire pattern as an input, decoded by the table of R90
to a well-formed operation (log 17), and the refusal by name of a pattern of no row (log 13, after U20) are the model's
choices. -/
def Obligations.StepRunsOfferedOperation : Prop :=
  ∀ (s : State) (rest : List Input),
    (∀ i : Instr, s.inputs = .op i :: rest → step s = exec i { s with inputs := rest }) ∧
    (∀ (f : List Byte) (i : Instr), s.inputs = .frame f :: rest → decodeFrame f = .ok i →
      i.wellFormed = true ∧ step s = exec i { s with inputs := rest }) ∧
    (∀ (f : List Byte) (why : Reject), s.inputs = .frame f :: rest → decodeFrame f = .error why →
      step s = .refused (.undecodable why)) ∧
    (s.inputs = [] → step s = .next s)

/-- R261: the power-on state; `conn = Disconnected` is doc00's, the other values the spec's own choice (D10); the CRC
register is left out, the spec giving it no value. -/
def Obligations.PowerOnResetState : Prop :=
  State.reset.conn = .disconnected ∧ State.reset.live = false ∧ State.reset.buf = [] ∧ State.reset.port = none ∧
  State.reset.dev = { voltage := 0, current := 0, outputState := false, setVoltage := 0, setCurrent := 0 } ∧
  State.reset.pollSched = none ∧ State.reset.confirmPending = { half := 0, threeTenths := 0 } ∧
  State.reset.subs = [] ∧ State.reset.debugTrace = false ∧ State.reset.tx = [] ∧ State.reset.notifications = []

/-- The reset state is sound (R14, R159, R27), and nothing is on the line yet. The reset values beside `conn` are the
spec's choice D10. -/
def Obligations.ResetStateIsSound : Prop :=
  sound State.reset = true ∧ WholeFrames State.reset.tx

/-- R14, R216, R10, R159, R27, R16: every step of the block on external operations keeps the sound states. R159 and
`Connecting` unobserved are the spec's own inferences. -/
def Obligations.StepKeepsSound : Prop :=
  ∀ s t : State, sound s = true → step s = .next t → sound t = true

/-- R54, R72, R180: on external operations the line carries whole command frames and nothing else, only ever appended
to, and only while the Session is connected over a live line. Whole, uninterleaved frames are the spec's choice D21.
-/
def Obligations.StepSendsWholeCommandFrames : Prop :=
  ∀ s t : State, s.inputs.all (·.isExternal) = true → WholeFrames s.tx → step s = .next t →
    WholeFrames t.tx ∧ s.tx <+: t.tx ∧ (t.tx ≠ s.tx → s.conn = .connected ∧ s.live = true)

/-- R10, R11, R244: each register is written only by the operations the spec names for it. That computations inside
the Codec leave `crc` alone is DEDUCED (log 10). -/
def Obligations.RegistersHaveNamedWriters : Prop :=
  ∀ (i : Instr) (s t : State), exec i s = .next t →
    (t.crc = s.crc ∨ i = .crcSeed ∨ i = .crcBit ∨ (∃ b, i = .crcByte b) ∨ ∃ bs, i = .crc16Modbus bs) ∧
    (t.buf = s.buf ∨ (∃ bs, i = .rxChunk bs) ∨ i = .rxReset ∨ ∃ p, i = .connect p .ok) ∧
    (t.live = s.live ∨ (∃ p o, i = .tOpen p o) ∨ i = .tClose ∨ i = .linkLoss ∨ (∃ p o, i = .connect p o) ∨
      i = .disconnect) ∧
    (t.conn = s.conn ∨ (∃ p o, i = .connect p o) ∨ i = .disconnect) ∧
    (t.port = s.port ∨ ∃ p, i = .connect p .ok ∧ t.port = some p) ∧
    ((t.dev.voltage = s.dev.voltage ∧ t.dev.current = s.dev.current) ∨ (∃ bs, i = .rxChunk bs) ∨
      (∃ r, i = .onResponse r) ∨ ∃ p, i = .connect p .ok) ∧
    (t.dev.outputState = s.dev.outputState ∨ (∃ b, i = .sendSetOutput b) ∨ (∃ bs, i = .rxChunk bs) ∨
      (∃ r, i = .onResponse r) ∨ ∃ p, i = .connect p .ok) ∧
    (t.dev.setVoltage = s.dev.setVoltage ∨ (∃ v, i = .sendSetVoltage v) ∨ ∃ p, i = .connect p .ok) ∧
    (t.dev.setCurrent = s.dev.setCurrent ∨ (∃ a, i = .sendSetCurrent a) ∨ ∃ p, i = .connect p .ok) ∧
    (t.pollSched = s.pollSched ∨ (∃ q, i = .startPolling q) ∨ i = .disconnect) ∧
    (t.confirmPending = s.confirmPending ∨ (∃ b, i = .sendSetOutput b) ∨ (∃ v, i = .sendSetVoltage v) ∨
      (∃ a, i = .sendSetCurrent a) ∨ (∃ d, i = .confirmTick d) ∨ i = .disconnect) ∧
    (t.subs = s.subs ∨ ∃ h, i = .subscribe h) ∧
    (t.notifications = s.notifications ∨ (∃ bs, i = .rxChunk bs) ∨ (∃ r, i = .onResponse r) ∨
      ∃ v a o, i = .notify v a o) ∧
    (t.tx = s.tx ∨ (∃ bs, i = .tWrite bs) ∨ (∃ q, i = .startPolling q) ∨ i = .sendReadValues ∨
      (∃ b, i = .sendSetOutput b) ∨ (∃ v, i = .sendSetVoltage v) ∨ (∃ a, i = .sendSetCurrent a) ∨ i = .pollTick ∨
      ∃ d, i = .confirmTick d) ∧
    t.debugTrace = s.debugTrace ∧ t.params = s.params ∧ t.inputs = s.inputs

/-- R216: the connection state machine. A failed open ends `Disconnected` by C9; `link_loss` and `connected()` are the
spec's choices D26 and D8, and that `Connecting` is not observed is its own inference at R14. -/
def Obligations.ConnectionStateMachine : Prop :=
  ∀ (i : Instr) (s t : State), exec i s = .next t →
    (∀ p, i = .connect p .ok → t.conn = .connected ∧ t.live = true ∧ t.buf = []) ∧
    (∀ p msg, i = .connect p (.err msg) →
      t.conn = .disconnected ∧ t.live = false ∧ t.result = .raised (.connectionError msg)) ∧
    (i = .disconnect → t.conn = .disconnected ∧ t.live = false ∧ exec .disconnect t = .next t) ∧
    (i = .linkLoss → t = { s with live := false, result := .done } ∧ isConnected t = false) ∧
    ((∀ p o, i ≠ .connect p o) → i ≠ .disconnect → t.conn = s.conn) ∧
    (s.conn ≠ .connecting → t.conn ≠ .connecting)

/-- R230: `ConnectionError` comes only from a refused open, `RangeError` only from the two range checks; no other
operation raises an error. -/
def Obligations.ErrorsComeFromNamedOperations : Prop :=
  ∀ (i : Instr) (s t : State) (e : Error), exec i s = .next t → t.result = .raised e →
    (e = .rangeError ∧ ((∃ v, i = .sendSetVoltage v) ∨ ∃ a, i = .sendSetCurrent a)) ∨
    ∃ msg, e = .connectionError msg ∧ ∃ p, i = .tOpen p (.err msg) ∨ i = .connect p (.err msg)

/-- R230, R43: with an unbounded buffer every operation on operands of its domain completes; nothing is fatal. The
domains are those of `Instr.wellFormed`. -/
def Obligations.WellFormedOperationsComplete : Prop :=
  ∀ (i : Instr) (s : State), i.wellFormed = true → s.params.rxBufCap = none → ∃ t, exec i s = .next t
end

