-- ==== Sys2Proof/Laws/Operands.lean ====
section
/-! SUPPORT. Lemmas about the operand forms: words and bytes, rounding, saturation, the range checks. -/

namespace Sys2Proof.Machine

theorem be16_toNat (h l : Byte) : (be16 h l).toNat = 256 * h.toNat + l.toNat := by
  have hl := l.isLt
  have : (be16 h l).toNat = h.toNat <<< 8 ||| l.toNat := BitVec.toNat_append h l
  rw [this, ← Nat.shiftLeft_add_eq_or_of_lt hl, Nat.shiftLeft_eq]
  omega

theorem lo8_toNat (w : Word) : (lo8 w).toNat = w.toNat % 256 := by
  simp [lo8]

theorem hi8_toNat (w : Word) : (hi8 w).toNat = w.toNat / 256 := by
  have := w.isLt
  simp only [hi8, BitVec.extractLsb'_toNat, Nat.shiftRight_eq_div_pow]
  omega

theorem be16_hi8_lo8 (w : Word) : be16 (hi8 w) (lo8 w) = w := by
  apply BitVec.eq_of_toNat_eq
  rw [be16_toNat, hi8_toNat, lo8_toNat]
  omega

theorem hi8_be16 (h l : Byte) : hi8 (be16 h l) = h := by
  have := l.isLt
  apply BitVec.eq_of_toNat_eq
  rw [hi8_toNat, be16_toNat]
  omega

theorem lo8_be16 (h l : Byte) : lo8 (be16 h l) = l := by
  have := l.isLt
  apply BitVec.eq_of_toNat_eq
  rw [lo8_toNat, be16_toNat]
  omega

/-- The high byte as a quotient, the form in which statements write a count's bytes. -/
theorem hi8_eq_ofNat (w : Word) : hi8 w = BitVec.ofNat 8 (w.toNat / 256) := by
  have := w.isLt
  apply BitVec.eq_of_toNat_eq
  rw [hi8_toNat, BitVec.toNat_ofNat]
  omega

theorem lo8_eq_ofNat (w : Word) : lo8 w = BitVec.ofNat 8 (w.toNat % 256) := by
  apply BitVec.eq_of_toNat_eq
  rw [lo8_toNat, BitVec.toNat_ofNat]
  omega

theorem slice_length {s : List Byte} {i j : Nat} (h : j < s.length) : (slice s i j).length = j + 1 - i := by
  simp only [slice, List.length_drop, List.length_take]
  omega

theorem slice_getElem? {s : List Byte} {i j k : Nat} (h : i + k ≤ j) : (slice s i j)[k]? = s[i + k]? := by
  simp only [slice, List.getElem?_drop]
  rw [List.getElem?_take_of_lt (by omega)]

/-- Rounding lands on one of the two neighbours, and on the nearest when there is one. -/
theorem roundRat_cases (tie : RoundTie) (x : Rat) :
    (roundRat tie x = x.floor ∧ x - x.floor ≤ 1 / 2) ∨
      (roundRat tie x = x.floor + 1 ∧ 1 / 2 ≤ x - x.floor) := by
  simp only [roundRat]
  split
  · next h => exact .inl ⟨rfl, h.le⟩
  · next h =>
    split
    · next h' => exact .inr ⟨rfl, h'.le⟩
    · next h' =>
      split
      · exact .inr ⟨rfl, not_lt.mp h⟩
      · exact .inl ⟨rfl, not_lt.mp h'⟩

/-- On an integer every tie rule gives that integer. -/
theorem roundRat_intCast (tie : RoundTie) (n : Int) : roundRat tie (n : Rat) = n := by
  have hf : (n : Rat).floor = n := Rat.floor_intCast n
  simp [roundRat, hf]

theorem clamp16_of_mem {n : Int} (h0 : 0 ≤ n) (h1 : n ≤ 65535) : clamp16 n = n := by
  simp only [clamp16]
  rw [if_neg (by omega), if_neg (by omega)]

theorem clamp16_nonneg (n : Int) : 0 ≤ clamp16 n := by
  simp only [clamp16]; split
  · rfl
  · split <;> omega

theorem clamp16_le (n : Int) : clamp16 n ≤ 65535 := by
  simp only [clamp16]; split
  · decide
  · split <;> omega

/-- The count as a number is the saturated, rounded product: nothing is lost in the 16 bits. -/
theorem scale16_toNat (tie : RoundTie) (x k : Rat) :
    ((scale16 tie x k).toNat : Int) = clamp16 (roundRat tie (x * k)) := by
  have h0 := clamp16_nonneg (roundRat tie (x * k))
  have h1 := clamp16_le (roundRat tie (x * k))
  simp only [scale16, BitVec.toNat_ofInt]
  omega

theorem inRange_rational (lo hi q : Rat) :
    inRange lo hi (.rational q) = if lo ≤ q ∧ q ≤ hi then some q else none := rfl

theorem inRange_notANumber (lo hi : Rat) : inRange lo hi .notANumber = none := rfl

theorem inRange_eq_some {lo hi : Rat} {v : Quantity} {q : Rat} :
    inRange lo hi v = some q ↔ v = .rational q ∧ lo ≤ q ∧ q ≤ hi := by
  cases v with
  | rational x =>
    rw [inRange_rational]
    constructor
    · intro h
      split at h
      · next hx => cases h; exact ⟨rfl, hx⟩
      · cases h
    · rintro ⟨h, hq⟩
      cases h
      rw [if_pos hq]
  | notANumber => simp [inRange_notANumber]

/-- The range check fails exactly on what is not a number and on what lies outside (R232, D7). -/
theorem inRange_eq_none {lo hi : Rat} {v : Quantity} :
    inRange lo hi v = none ↔ v = .notANumber ∨ ∃ q, v = .rational q ∧ (q < lo ∨ hi < q) := by
  cases v with
  | notANumber => simp [inRange_notANumber]
  | rational x =>
    rw [inRange_rational, ite_eq_right_iff]
    simp only [reduceCtorEq, imp_false, not_and_or, not_le, false_or, Quantity.rational.injEq, exists_eq_left']

theorem pollInterval_eq_some {i : Option Quantity} {q : Rat} :
    pollInterval i = some q ↔ (i = none ∧ q = 1) ∨ (i = some (.rational q) ∧ 0 < q) := by
  match i with
  | none => simp [pollInterval, Config.pollDefault, eq_comm]
  | some (.rational x) =>
    simp only [pollInterval]
    constructor
    · intro h
      split at h
      · next hx => cases h; exact .inr ⟨rfl, hx⟩
      · cases h
    · rintro (⟨h, -⟩ | ⟨h, hq⟩)
      · cases h
      · cases h; rw [if_pos hq]
  | some .notANumber => simp [pollInterval]

end Sys2Proof.Machine

namespace Sys2Proof

theorem isCount_iff (x : Rat) : isCount x = true ↔ ∃ n : Nat, n ≤ 65535 ∧ x = n := by
  simp only [isCount, Bool.and_eq_true, beq_iff_eq, decide_eq_true_eq]
  constructor
  · rintro ⟨⟨hd, h0⟩, h1⟩
    have hx : x = (x.num : Rat) := by
      conv_lhs => rw [← Rat.num_div_den x, hd]
      simp
    have hn : 0 ≤ x.num := Rat.num_nonneg.mpr h0
    refine ⟨x.num.toNat, ?_, ?_⟩
    · have : (x.num : Rat) ≤ 65535 := hx ▸ h1
      have : x.num ≤ 65535 := by exact_mod_cast this
      omega
    · have h : ((x.num.toNat : Int) : Rat) = (x.num : Rat) := by rw [Int.toNat_of_nonneg hn]
      rw [hx, ← h]
      rfl
  · rintro ⟨n, hn, rfl⟩
    refine ⟨⟨Rat.den_natCast n, by positivity⟩, by exact_mod_cast hn⟩

end Sys2Proof
end

