-- ==== Sys2Proof/Laws/Crc.lean ====
section
/-! SUPPORT. Lemmas about the CRC: how a computation is built up byte by byte, and what one byte does. -/

namespace Sys2Proof.Machine

@[simp] theorem crcUpdate_nil (c : Word) : crcUpdate c [] = c := rfl

@[simp] theorem crcUpdate_cons (c : Word) (b : Byte) (bs : List Byte) :
    crcUpdate c (b :: bs) = crcUpdate (crcByteStep c b) bs := rfl

theorem crcUpdate_append (c : Word) (s t : List Byte) :
    crcUpdate c (s ++ t) = crcUpdate (crcUpdate c s) t := List.foldl_append

theorem crc16_append (s t : List Byte) : crc16 (s ++ t) = crcUpdate (crc16 s) t :=
  crcUpdate_append Config.crcSeed s t

/-- `crc_bit` as one expression: shift, then XOR when bit 0 was set. -/
theorem crcBitStep_eq (c : Word) :
    crcBitStep c = (c >>> 1) ^^^ (if c.getLsbD 0 then Config.crcPoly else 0) := by
  simp only [crcBitStep]
  split <;> simp

theorem crcCheckAnswer_of_le {cand : List Byte} (h : 14 ≤ cand.length) : crcCheckAnswer cand = crcCheckOk cand :=
  if_neg (not_lt.mpr h)

theorem crcByteStep_zero : crcByteStep 0 0 = 0 := by decide

end Sys2Proof.Machine
end

