-- ==== Sys2Proof/Laws/Frames.lean ====
section
/-! SUPPORT. Lemmas about frames: the shape of the four encodings, and when and what `decode` answers. -/

namespace Sys2Proof.Machine

theorem frame_eq (p : List Byte) : frame p = p ++ [lo8 (crc16 p), hi8 (crc16 p), 0xFD] := by
  simp [frame, crcEmitBytes, Config.term]

theorem frame_length (p : List Byte) : (frame p).length = p.length + 3 := by
  simp [frame_eq]

theorem encodeReadValues_eq : encodeReadValues = [0xF7, 0x01, 0x03, 0x04, 0x03, 0x62, 0xE8, 0xFD] := by
  decide +kernel

theorem encodeSetOutput_eq (b : Bool) : encodeSetOutput b =
    if b then [0xF7, 0x01, 0x0A, 0x1E, 0x01, 0x00, 0x01, 0x92, 0x37, 0xFD]
    else [0xF7, 0x01, 0x0A, 0x1E, 0x01, 0x00, 0x00, 0x53, 0xF7, 0xFD] := by
  cases b <;> decide +kernel

theorem outputBit_eq (b : Byte) : outputBit b = b.getLsbD 5 := by
  revert b; decide

theorem decodeCandidate_eq_some {verify : Bool} {cand : List Byte} {r : Response} :
    decodeCandidate verify cand = some r ↔
    14 ≤ cand.length ∧ byteAt cand 0 = Config.addr ∧ byteAt cand 13 = Config.term ∧
      (verify = true → crcCheckOk cand = true) ∧ r = measurement cand := by
  simp only [decodeCandidate, Config.respLen, Config.termIndex]
  by_cases h1 : cand.length < 14
  · simp [h1]
  · by_cases h2 : byteAt cand 0 = Config.addr
    · by_cases h3 : byteAt cand 13 = Config.term
      · cases verify <;> cases crcCheckOk cand <;> simp [h1, h2, h3, eq_comm] <;> omega
      · simp [h1, h2, h3]
    · simp [h1, h2]

theorem decodeCandidate_eq_none {verify : Bool} {cand : List Byte} : decodeCandidate verify cand = none ↔
    cand.length < 14 ∨ byteAt cand 0 ≠ Config.addr ∨ byteAt cand 13 ≠ Config.term ∨
      (verify = true ∧ crcCheckOk cand = false) := by
  rw [Option.eq_none_iff_forall_ne_some]
  constructor
  · intro h
    have := h (measurement cand)
    rw [ne_eq, decodeCandidate_eq_some] at this
    by_contra hc
    simp only [not_or, not_lt, ne_eq, not_not, not_and, Bool.not_eq_false] at hc
    exact this ⟨hc.1, hc.2.1, hc.2.2.1, hc.2.2.2, rfl⟩
  · intro h r hr
    obtain ⟨h1, h2, h3, h4, -⟩ := decodeCandidate_eq_some.mp hr
    rcases h with h | h | h | ⟨hv, hc⟩
    · omega
    · exact h h2
    · exact h h3
    · simp [h4 hv] at hc

/-- Whatever the decoder accepts is an instance of a row of the table, and the operation is that row's. -/
theorem decodeFrame_eq_ok {f : List Byte} {i : Instr} (h : decodeFrame f = .ok i) :
    ∃ r ∈ wireTable, r.isInstance f = true ∧ i = wireInstr r.row f := by
  simp only [decodeFrame] at h
  split at h
  · next r hr =>
    cases h
    exact ⟨r, List.mem_of_find?_eq_some hr, by simpa using List.find?_some hr, rfl⟩
  · cases h

theorem isCommandFrame_readValues : isCommandFrame encodeReadValues = true := by
  simp [isCommandFrame]

theorem isCommandFrame_setOutput (b : Bool) : isCommandFrame (encodeSetOutput b) = true := by
  cases b <;> simp [isCommandFrame]

theorem isCommandFrame_setVoltage (n : Word) : isCommandFrame (frame (setVoltagePayload n)) = true := by
  have : be16 (byteAt (frame (setVoltagePayload n)) 5) (byteAt (frame (setVoltagePayload n)) 6) = n :=
    be16_hi8_lo8 n
  simp [isCommandFrame, this]

theorem isCommandFrame_setCurrent (n : Word) : isCommandFrame (frame (setCurrentPayload n)) = true := by
  have : be16 (byteAt (frame (setCurrentPayload n)) 5) (byteAt (frame (setCurrentPayload n)) 6) = n :=
    be16_hi8_lo8 n
  simp [isCommandFrame, this]

/-- A decoded response is in the domain of R131. -/
theorem measurement_isDecodable (cand : List Byte) : (measurement cand).isDecodable = true := by
  have h (w : Word) (k : Rat) (hk : k ≠ 0) : isCount ((w.toNat : Rat) / k * k) = true := by
    rw [div_mul_cancel₀ _ hk]
    exact (isCount_iff _).mpr ⟨w.toNat, Nat.le_of_lt_succ w.isLt, rfl⟩
  simp only [Response.isDecodable, measurement, Bool.and_eq_true]
  exact ⟨h _ _ (by norm_num [Config.vScale]), h _ _ (by norm_num [Config.iScale])⟩

end Sys2Proof.Machine
end

