-- ==== Sys2Proof/Laws/State.lean ====
section
/-! SUPPORT. What each named operation does to each field of the state: one lemma per field, true by definition. -/

namespace Sys2Proof.Machine

theorem complete_eq (r : Result) (s : State) : complete r s = .next { s with result := r } := rfl

theorem raise_eq (e : Error) (s : State) : raise e s = .next { s with result := .raised e } := rfl

@[simp] theorem bufAppend_crc (bytes : List Byte) (s : State) : (bufAppend bytes s).crc = s.crc := rfl
@[simp] theorem bufAppend_buf (bytes : List Byte) (s : State) :
    (bufAppend bytes s).buf = s.buf ++ bytes := rfl
@[simp] theorem bufAppend_live (bytes : List Byte) (s : State) : (bufAppend bytes s).live = s.live := rfl
@[simp] theorem bufAppend_conn (bytes : List Byte) (s : State) : (bufAppend bytes s).conn = s.conn := rfl
@[simp] theorem bufAppend_port (bytes : List Byte) (s : State) : (bufAppend bytes s).port = s.port := rfl
@[simp] theorem bufAppend_dev (bytes : List Byte) (s : State) : (bufAppend bytes s).dev = s.dev := rfl
@[simp] theorem bufAppend_pollSched (bytes : List Byte) (s : State) :
    (bufAppend bytes s).pollSched = s.pollSched := rfl
@[simp] theorem bufAppend_confirmPending (bytes : List Byte) (s : State) :
    (bufAppend bytes s).confirmPending = s.confirmPending := rfl
@[simp] theorem bufAppend_subs (bytes : List Byte) (s : State) : (bufAppend bytes s).subs = s.subs := rfl
@[simp] theorem bufAppend_debugTrace (bytes : List Byte) (s : State) :
    (bufAppend bytes s).debugTrace = s.debugTrace := rfl
@[simp] theorem bufAppend_tx (bytes : List Byte) (s : State) : (bufAppend bytes s).tx = s.tx := rfl
@[simp] theorem bufAppend_notifications (bytes : List Byte) (s : State) :
    (bufAppend bytes s).notifications = s.notifications := rfl
@[simp] theorem bufAppend_params (bytes : List Byte) (s : State) :
    (bufAppend bytes s).params = s.params := rfl
@[simp] theorem bufAppend_result (bytes : List Byte) (s : State) :
    (bufAppend bytes s).result = s.result := rfl
@[simp] theorem bufAppend_inputs (bytes : List Byte) (s : State) :
    (bufAppend bytes s).inputs = s.inputs := rfl

@[simp] theorem bufDrop_crc (n : Nat) (s : State) : (bufDrop n s).crc = s.crc := rfl
@[simp] theorem bufDrop_buf (n : Nat) (s : State) : (bufDrop n s).buf = s.buf.drop n := rfl
@[simp] theorem bufDrop_live (n : Nat) (s : State) : (bufDrop n s).live = s.live := rfl
@[simp] theorem bufDrop_conn (n : Nat) (s : State) : (bufDrop n s).conn = s.conn := rfl
@[simp] theorem bufDrop_port (n : Nat) (s : State) : (bufDrop n s).port = s.port := rfl
@[simp] theorem bufDrop_dev (n : Nat) (s : State) : (bufDrop n s).dev = s.dev := rfl
@[simp] theorem bufDrop_pollSched (n : Nat) (s : State) : (bufDrop n s).pollSched = s.pollSched := rfl
@[simp] theorem bufDrop_confirmPending (n : Nat) (s : State) :
    (bufDrop n s).confirmPending = s.confirmPending := rfl
@[simp] theorem bufDrop_subs (n : Nat) (s : State) : (bufDrop n s).subs = s.subs := rfl
@[simp] theorem bufDrop_debugTrace (n : Nat) (s : State) : (bufDrop n s).debugTrace = s.debugTrace := rfl
@[simp] theorem bufDrop_tx (n : Nat) (s : State) : (bufDrop n s).tx = s.tx := rfl
@[simp] theorem bufDrop_notifications (n : Nat) (s : State) :
    (bufDrop n s).notifications = s.notifications := rfl
@[simp] theorem bufDrop_params (n : Nat) (s : State) : (bufDrop n s).params = s.params := rfl
@[simp] theorem bufDrop_result (n : Nat) (s : State) : (bufDrop n s).result = s.result := rfl
@[simp] theorem bufDrop_inputs (n : Nat) (s : State) : (bufDrop n s).inputs = s.inputs := rfl

@[simp] theorem bufReset_crc (s : State) : (bufReset s).crc = s.crc := rfl
@[simp] theorem bufReset_buf (s : State) : (bufReset s).buf = [] := rfl
@[simp] theorem bufReset_live (s : State) : (bufReset s).live = s.live := rfl
@[simp] theorem bufReset_conn (s : State) : (bufReset s).conn = s.conn := rfl
@[simp] theorem bufReset_port (s : State) : (bufReset s).port = s.port := rfl
@[simp] theorem bufReset_dev (s : State) : (bufReset s).dev = s.dev := rfl
@[simp] theorem bufReset_pollSched (s : State) : (bufReset s).pollSched = s.pollSched := rfl
@[simp] theorem bufReset_confirmPending (s : State) : (bufReset s).confirmPending = s.confirmPending := rfl
@[simp] theorem bufReset_subs (s : State) : (bufReset s).subs = s.subs := rfl
@[simp] theorem bufReset_debugTrace (s : State) : (bufReset s).debugTrace = s.debugTrace := rfl
@[simp] theorem bufReset_tx (s : State) : (bufReset s).tx = s.tx := rfl
@[simp] theorem bufReset_notifications (s : State) : (bufReset s).notifications = s.notifications := rfl
@[simp] theorem bufReset_params (s : State) : (bufReset s).params = s.params := rfl
@[simp] theorem bufReset_result (s : State) : (bufReset s).result = s.result := rfl
@[simp] theorem bufReset_inputs (s : State) : (bufReset s).inputs = s.inputs := rfl

@[simp] theorem openLine_crc (o : OpenOutcome) (s : State) : (openLine o s).crc = s.crc := rfl
@[simp] theorem openLine_buf (o : OpenOutcome) (s : State) : (openLine o s).buf = s.buf := rfl
@[simp] theorem openLine_live (o : OpenOutcome) (s : State) :
    (openLine o s).live = match o with | .ok => true | .err _ => false := rfl
@[simp] theorem openLine_conn (o : OpenOutcome) (s : State) : (openLine o s).conn = s.conn := rfl
@[simp] theorem openLine_port (o : OpenOutcome) (s : State) : (openLine o s).port = s.port := rfl
@[simp] theorem openLine_dev (o : OpenOutcome) (s : State) : (openLine o s).dev = s.dev := rfl
@[simp] theorem openLine_pollSched (o : OpenOutcome) (s : State) :
    (openLine o s).pollSched = s.pollSched := rfl
@[simp] theorem openLine_confirmPending (o : OpenOutcome) (s : State) :
    (openLine o s).confirmPending = s.confirmPending := rfl
@[simp] theorem openLine_subs (o : OpenOutcome) (s : State) : (openLine o s).subs = s.subs := rfl
@[simp] theorem openLine_debugTrace (o : OpenOutcome) (s : State) :
    (openLine o s).debugTrace = s.debugTrace := rfl
@[simp] theorem openLine_tx (o : OpenOutcome) (s : State) : (openLine o s).tx = s.tx := rfl
@[simp] theorem openLine_notifications (o : OpenOutcome) (s : State) :
    (openLine o s).notifications = s.notifications := rfl
@[simp] theorem openLine_params (o : OpenOutcome) (s : State) : (openLine o s).params = s.params := rfl
@[simp] theorem openLine_result (o : OpenOutcome) (s : State) : (openLine o s).result = s.result := rfl
@[simp] theorem openLine_inputs (o : OpenOutcome) (s : State) : (openLine o s).inputs = s.inputs := rfl

@[simp] theorem closeLine_crc (s : State) : (closeLine s).crc = s.crc := rfl
@[simp] theorem closeLine_buf (s : State) : (closeLine s).buf = s.buf := rfl
@[simp] theorem closeLine_live (s : State) : (closeLine s).live = false := rfl
@[simp] theorem closeLine_conn (s : State) : (closeLine s).conn = s.conn := rfl
@[simp] theorem closeLine_port (s : State) : (closeLine s).port = s.port := rfl
@[simp] theorem closeLine_dev (s : State) : (closeLine s).dev = s.dev := rfl
@[simp] theorem closeLine_pollSched (s : State) : (closeLine s).pollSched = s.pollSched := rfl
@[simp] theorem closeLine_confirmPending (s : State) : (closeLine s).confirmPending = s.confirmPending := rfl
@[simp] theorem closeLine_subs (s : State) : (closeLine s).subs = s.subs := rfl
@[simp] theorem closeLine_debugTrace (s : State) : (closeLine s).debugTrace = s.debugTrace := rfl
@[simp] theorem closeLine_tx (s : State) : (closeLine s).tx = s.tx := rfl
@[simp] theorem closeLine_notifications (s : State) : (closeLine s).notifications = s.notifications := rfl
@[simp] theorem closeLine_params (s : State) : (closeLine s).params = s.params := rfl
@[simp] theorem closeLine_result (s : State) : (closeLine s).result = s.result := rfl
@[simp] theorem closeLine_inputs (s : State) : (closeLine s).inputs = s.inputs := rfl

@[simp] theorem writeLine_crc (bytes : List Byte) (s : State) : (writeLine bytes s).crc = s.crc := rfl
@[simp] theorem writeLine_buf (bytes : List Byte) (s : State) : (writeLine bytes s).buf = s.buf := rfl
@[simp] theorem writeLine_live (bytes : List Byte) (s : State) : (writeLine bytes s).live = s.live := rfl
@[simp] theorem writeLine_conn (bytes : List Byte) (s : State) : (writeLine bytes s).conn = s.conn := rfl
@[simp] theorem writeLine_port (bytes : List Byte) (s : State) : (writeLine bytes s).port = s.port := rfl
@[simp] theorem writeLine_dev (bytes : List Byte) (s : State) : (writeLine bytes s).dev = s.dev := rfl
@[simp] theorem writeLine_pollSched (bytes : List Byte) (s : State) :
    (writeLine bytes s).pollSched = s.pollSched := rfl
@[simp] theorem writeLine_confirmPending (bytes : List Byte) (s : State) :
    (writeLine bytes s).confirmPending = s.confirmPending := rfl
@[simp] theorem writeLine_subs (bytes : List Byte) (s : State) : (writeLine bytes s).subs = s.subs := rfl
@[simp] theorem writeLine_debugTrace (bytes : List Byte) (s : State) :
    (writeLine bytes s).debugTrace = s.debugTrace := rfl
@[simp] theorem writeLine_tx (bytes : List Byte) (s : State) :
    (writeLine bytes s).tx = if s.live then s.tx ++ bytes else s.tx := rfl
@[simp] theorem writeLine_notifications (bytes : List Byte) (s : State) :
    (writeLine bytes s).notifications = s.notifications := rfl
@[simp] theorem writeLine_params (bytes : List Byte) (s : State) :
    (writeLine bytes s).params = s.params := rfl
@[simp] theorem writeLine_result (bytes : List Byte) (s : State) :
    (writeLine bytes s).result = s.result := rfl
@[simp] theorem writeLine_inputs (bytes : List Byte) (s : State) :
    (writeLine bytes s).inputs = s.inputs := rfl

@[simp] theorem notifyAll_crc (v i : Rat) (o : Bool) (s : State) : (notifyAll v i o s).crc = s.crc := rfl
@[simp] theorem notifyAll_buf (v i : Rat) (o : Bool) (s : State) : (notifyAll v i o s).buf = s.buf := rfl
@[simp] theorem notifyAll_live (v i : Rat) (o : Bool) (s : State) : (notifyAll v i o s).live = s.live := rfl
@[simp] theorem notifyAll_conn (v i : Rat) (o : Bool) (s : State) : (notifyAll v i o s).conn = s.conn := rfl
@[simp] theorem notifyAll_port (v i : Rat) (o : Bool) (s : State) : (notifyAll v i o s).port = s.port := rfl
@[simp] theorem notifyAll_dev (v i : Rat) (o : Bool) (s : State) : (notifyAll v i o s).dev = s.dev := rfl
@[simp] theorem notifyAll_pollSched (v i : Rat) (o : Bool) (s : State) :
    (notifyAll v i o s).pollSched = s.pollSched := rfl
@[simp] theorem notifyAll_confirmPending (v i : Rat) (o : Bool) (s : State) :
    (notifyAll v i o s).confirmPending = s.confirmPending := rfl
@[simp] theorem notifyAll_subs (v i : Rat) (o : Bool) (s : State) : (notifyAll v i o s).subs = s.subs := rfl
@[simp] theorem notifyAll_debugTrace (v i : Rat) (o : Bool) (s : State) :
    (notifyAll v i o s).debugTrace = s.debugTrace := rfl
@[simp] theorem notifyAll_tx (v i : Rat) (o : Bool) (s : State) : (notifyAll v i o s).tx = s.tx := rfl
@[simp] theorem notifyAll_notifications (v i : Rat) (o : Bool) (s : State) :
    (notifyAll v i o s).notifications = s.notifications ++
      s.subs.map fun h => { handler := h, voltage := v, current := i, outputState := o } := rfl
@[simp] theorem notifyAll_params (v i : Rat) (o : Bool) (s : State) :
    (notifyAll v i o s).params = s.params := rfl
@[simp] theorem notifyAll_result (v i : Rat) (o : Bool) (s : State) :
    (notifyAll v i o s).result = s.result := rfl
@[simp] theorem notifyAll_inputs (v i : Rat) (o : Bool) (s : State) :
    (notifyAll v i o s).inputs = s.inputs := rfl

@[simp] theorem applyResponse_crc (r : Response) (s : State) : (applyResponse r s).crc = s.crc := rfl
@[simp] theorem applyResponse_buf (r : Response) (s : State) : (applyResponse r s).buf = s.buf := rfl
@[simp] theorem applyResponse_live (r : Response) (s : State) : (applyResponse r s).live = s.live := rfl
@[simp] theorem applyResponse_conn (r : Response) (s : State) : (applyResponse r s).conn = s.conn := rfl
@[simp] theorem applyResponse_port (r : Response) (s : State) : (applyResponse r s).port = s.port := rfl
@[simp] theorem applyResponse_dev (r : Response) (s : State) :
    (applyResponse r s).dev = { s.dev with voltage := r.voltage, current := r.current, outputState := r.outputState } := rfl
@[simp] theorem applyResponse_pollSched (r : Response) (s : State) :
    (applyResponse r s).pollSched = s.pollSched := rfl
@[simp] theorem applyResponse_confirmPending (r : Response) (s : State) :
    (applyResponse r s).confirmPending = s.confirmPending := rfl
@[simp] theorem applyResponse_subs (r : Response) (s : State) : (applyResponse r s).subs = s.subs := rfl
@[simp] theorem applyResponse_debugTrace (r : Response) (s : State) :
    (applyResponse r s).debugTrace = s.debugTrace := rfl
@[simp] theorem applyResponse_tx (r : Response) (s : State) : (applyResponse r s).tx = s.tx := rfl
@[simp] theorem applyResponse_notifications (r : Response) (s : State) :
    (applyResponse r s).notifications = s.notifications ++ s.subs.map fun h =>
      { handler := h, voltage := r.voltage, current := r.current, outputState := r.outputState } := rfl
@[simp] theorem applyResponse_params (r : Response) (s : State) : (applyResponse r s).params = s.params := rfl
@[simp] theorem applyResponse_result (r : Response) (s : State) : (applyResponse r s).result = s.result := rfl
@[simp] theorem applyResponse_inputs (r : Response) (s : State) : (applyResponse r s).inputs = s.inputs := rfl

@[simp] theorem scheduleConfirm_crc (d : Delay) (s : State) : (scheduleConfirm d s).crc = s.crc := rfl
@[simp] theorem scheduleConfirm_buf (d : Delay) (s : State) : (scheduleConfirm d s).buf = s.buf := rfl
@[simp] theorem scheduleConfirm_live (d : Delay) (s : State) : (scheduleConfirm d s).live = s.live := rfl
@[simp] theorem scheduleConfirm_conn (d : Delay) (s : State) : (scheduleConfirm d s).conn = s.conn := rfl
@[simp] theorem scheduleConfirm_port (d : Delay) (s : State) : (scheduleConfirm d s).port = s.port := rfl
@[simp] theorem scheduleConfirm_dev (d : Delay) (s : State) : (scheduleConfirm d s).dev = s.dev := rfl
@[simp] theorem scheduleConfirm_pollSched (d : Delay) (s : State) :
    (scheduleConfirm d s).pollSched = s.pollSched := rfl
@[simp] theorem scheduleConfirm_confirmPending (d : Delay) (s : State) :
    (scheduleConfirm d s).confirmPending = confirmAdd d s.confirmPending := rfl
@[simp] theorem scheduleConfirm_subs (d : Delay) (s : State) : (scheduleConfirm d s).subs = s.subs := rfl
@[simp] theorem scheduleConfirm_debugTrace (d : Delay) (s : State) :
    (scheduleConfirm d s).debugTrace = s.debugTrace := rfl
@[simp] theorem scheduleConfirm_tx (d : Delay) (s : State) : (scheduleConfirm d s).tx = s.tx := rfl
@[simp] theorem scheduleConfirm_notifications (d : Delay) (s : State) :
    (scheduleConfirm d s).notifications = s.notifications := rfl
@[simp] theorem scheduleConfirm_params (d : Delay) (s : State) :
    (scheduleConfirm d s).params = s.params := rfl
@[simp] theorem scheduleConfirm_result (d : Delay) (s : State) :
    (scheduleConfirm d s).result = s.result := rfl
@[simp] theorem scheduleConfirm_inputs (d : Delay) (s : State) :
    (scheduleConfirm d s).inputs = s.inputs := rfl

@[simp] theorem unscheduleConfirm_crc (d : Delay) (s : State) : (unscheduleConfirm d s).crc = s.crc := rfl
@[simp] theorem unscheduleConfirm_buf (d : Delay) (s : State) : (unscheduleConfirm d s).buf = s.buf := rfl
@[simp] theorem unscheduleConfirm_live (d : Delay) (s : State) : (unscheduleConfirm d s).live = s.live := rfl
@[simp] theorem unscheduleConfirm_conn (d : Delay) (s : State) : (unscheduleConfirm d s).conn = s.conn := rfl
@[simp] theorem unscheduleConfirm_port (d : Delay) (s : State) : (unscheduleConfirm d s).port = s.port := rfl
@[simp] theorem unscheduleConfirm_dev (d : Delay) (s : State) : (unscheduleConfirm d s).dev = s.dev := rfl
@[simp] theorem unscheduleConfirm_pollSched (d : Delay) (s : State) :
    (unscheduleConfirm d s).pollSched = s.pollSched := rfl
@[simp] theorem unscheduleConfirm_confirmPending (d : Delay) (s : State) :
    (unscheduleConfirm d s).confirmPending = confirmRemove d s.confirmPending := rfl
@[simp] theorem unscheduleConfirm_subs (d : Delay) (s : State) : (unscheduleConfirm d s).subs = s.subs := rfl
@[simp] theorem unscheduleConfirm_debugTrace (d : Delay) (s : State) :
    (unscheduleConfirm d s).debugTrace = s.debugTrace := rfl
@[simp] theorem unscheduleConfirm_tx (d : Delay) (s : State) : (unscheduleConfirm d s).tx = s.tx := rfl
@[simp] theorem unscheduleConfirm_notifications (d : Delay) (s : State) :
    (unscheduleConfirm d s).notifications = s.notifications := rfl
@[simp] theorem unscheduleConfirm_params (d : Delay) (s : State) :
    (unscheduleConfirm d s).params = s.params := rfl
@[simp] theorem unscheduleConfirm_result (d : Delay) (s : State) :
    (unscheduleConfirm d s).result = s.result := rfl
@[simp] theorem unscheduleConfirm_inputs (d : Delay) (s : State) :
    (unscheduleConfirm d s).inputs = s.inputs := rfl

end Sys2Proof.Machine
end

