-- ==== Sys2Proof/Laws/Memory.lean ====
section
/-! SUPPORT. The receive buffer: every operation over it keeps its canonical form (`Memory.wf`), and what each
leaves at an index (R40). -/

namespace Sys2Proof.Machine

theorem fitsCap_mono {cap : Option Nat} {m n : Nat} (h : m ≤ n) (hn : fitsCap cap n = true) :
    fitsCap cap m = true := by
  cases cap with
  | none => rfl
  | some c => simp only [fitsCap, decide_eq_true_eq] at *; omega

theorem Memory.wf_reset : Memory.wf State.reset.params.rxBufCap State.reset.buf = true := rfl

theorem Memory.wf_nil (cap : Option Nat) : Memory.wf cap [] = true := by
  cases cap <;> simp [Memory.wf, fitsCap]

/-- The append keeps the form exactly when the room test of `rx_chunk` passes. -/
theorem Memory.wf_append {cap : Option Nat} {buf bytes : List Byte}
    (h : fitsCap cap (buf.length + bytes.length) = true) : Memory.wf cap (buf ++ bytes) = true := by
  simpa [Memory.wf] using h

theorem Memory.wf_drop {cap : Option Nat} {buf : List Byte} (n : Nat) (h : Memory.wf cap buf = true) :
    Memory.wf cap (buf.drop n) = true :=
  fitsCap_mono (by simp) h

theorem bufByte_bufAppend_left {s : State} {bytes : List Byte} {i : Nat} (h : i < s.buf.length) :
    bufByte (bufAppend bytes s) i = bufByte s i := by
  simp [bufByte, List.getElem?_append_left h]

theorem bufByte_bufAppend_right {s : State} {bytes : List Byte} (i : Nat) :
    bufByte (bufAppend bytes s) (s.buf.length + i) = bytes[i]? := by
  simp [bufByte, List.getElem?_append_right]

/-- A removal of `n` bytes renumbers every remaining byte down by `n` (R40). -/
theorem bufByte_bufDrop (s : State) (n i : Nat) : bufByte (bufDrop n s) i = bufByte s (n + i) := by
  simp [bufByte]

/-- A read as a slice of R7: `MemRead(addr, n)` is `buf[addr .. addr+n-1]` (R8). -/
theorem bufRead_eq_slice (s : State) (addr n : Nat) : bufRead s addr (n + 1) = slice s.buf addr (addr + n) := by
  simp only [bufRead, slice, List.drop_take]
  congr 1
  omega

end Sys2Proof.Machine
end

