-- ==== Sys2Proof/Laws/Ops.lean ====
section
/-! SUPPORT. One lemma per shared operation: everything it does to the state, as one record update; and what a
step does with the head of `inputs`. -/

namespace Sys2Proof.Machine

theorem isConnected_iff (s : State) : isConnected s = true ↔ s.conn = .connected ∧ s.live = true := by
  simp [isConnected]

theorem poll_eq (s : State) :
    poll s = { s with tx := if isConnected s then s.tx ++ encodeReadValues else s.tx } := by
  simp only [poll]
  split
  · next h => simp [writeLine, ((isConnected_iff s).mp h).2]
  · rfl

theorem writeLine_of_live {s : State} (h : s.live = true) (bytes : List Byte) :
    writeLine bytes s = { s with tx := s.tx ++ bytes } := by
  simp [writeLine, h]

theorem writeLine_of_not_live {s : State} (h : s.live = false) (bytes : List Byte) :
    writeLine bytes s = s := by
  cases s; simp_all [writeLine]

theorem closeLine_of_not_live {s : State} (h : s.live = false) : closeLine s = s := by
  cases s; simp_all [closeLine]

theorem enterConnected_eq (port : String) (s : State) : enterConnected port s =
    { s with conn := .connected, buf := [], port := some port,
             dev := if s.params.resetDevStateOnConnect then DeviceState.zero else s.dev } := by
  rfl

theorem confirmCount_add (d d' : Delay) (c : Confirms) :
    confirmCount (confirmAdd d c) d' = confirmCount c d' + if d = d' then 1 else 0 := by
  cases d <;> cases d' <;> simp [confirmCount, confirmAdd]

theorem confirmCount_remove (d d' : Delay) (c : Confirms) :
    confirmCount (confirmRemove d c) d' = confirmCount c d' - if d = d' then 1 else 0 := by
  cases d <;> cases d' <;> simp [confirmCount, confirmRemove]

theorem step_idle {s : State} (h : s.inputs = []) : step s = .next s := by
  simp [step, fetch, h]

theorem step_op {s : State} {i : Instr} {rest : List Input} (h : s.inputs = .op i :: rest) :
    step s = exec i { s with inputs := rest } := by
  simp [step, fetch, h]

end Sys2Proof.Machine
end

