-- ==== Sys2Proof/Laws/PerInstr.lean ====
section
/-! SUPPORT. Laws about every operation as syntax, one lemma per constructor. `WireForm`: the encoding of an
operation, where it has one, is a frame of R70 and R71: address byte first, terminator last, 8, 10 or 14 bytes. -/

namespace Sys2Proof.Laws.WireForm

/-- The encoding of the operation, where it has one, starts `0xF7`, ends `0xFD` and has one of the three lengths. -/
def Statement (i : Instr) : Prop :=
  ∀ tie f, encode tie i = some f →
    f.head? = some Config.addr ∧ f.getLast? = some Config.term ∧ (f.length = 8 ∨ f.length = 10 ∨ f.length = 14)

/-- A frame built over a payload that starts with the address byte and has 5 or 7 bytes. -/
theorem frame_form {p : List Byte} (hh : p.head? = some Config.addr) (hl : p.length = 5 ∨ p.length = 7) :
    (Machine.frame p).head? = some Config.addr ∧ (Machine.frame p).getLast? = some Config.term ∧
      ((Machine.frame p).length = 8 ∨ (Machine.frame p).length = 10 ∨ (Machine.frame p).length = 14) := by
  refine ⟨?_, by simp [Machine.frame_eq, Config.term], by rw [Machine.frame_length]; omega⟩
  rw [Machine.frame_eq, List.head?_append, hh]
  rfl

theorem readValues : Statement .readValues := by
  intro tie f h
  cases h
  exact frame_form rfl (.inl rfl)

theorem setOutput (b : Bool) : Statement (.setOutput b) := by
  intro tie f h
  cases h
  exact frame_form rfl (.inr rfl)

theorem setVoltage (v : Rat) : Statement (.setVoltage v) := by
  intro tie f h
  cases h
  exact frame_form rfl (.inr rfl)

theorem setCurrent (a : Rat) : Statement (.setCurrent a) := by
  intro tie f h
  cases h
  exact frame_form rfl (.inr rfl)

theorem statusResponse (cand : List Byte) : Statement (.statusResponse cand) := by
  intro tie f h
  simp only [encode] at h
  split at h
  · next hc =>
    cases h
    obtain ⟨hl, h0, h13⟩ := hc
    simp only [Config.respLen] at hl
    refine ⟨?_, ?_, .inr (.inr hl)⟩
    · rw [List.head?_eq_getElem?, List.getElem?_eq_getElem (by omega), ← h0]
      simp [Machine.byteAt, hl]
    · rw [List.getLast?_eq_getElem?, hl, List.getElem?_eq_getElem (by omega), ← h13]
      simp [Machine.byteAt, Config.termIndex, hl]
  · cases h

theorem crcSeed : Statement .crcSeed := by
  intro tie f h
  cases h

theorem crcBit : Statement .crcBit := by
  intro tie f h
  cases h

theorem crcByte (b : Byte) : Statement (.crcByte b) := by
  intro tie f h
  cases h

theorem crc16Modbus (bs : List Byte) : Statement (.crc16Modbus bs) := by
  intro tie f h
  cases h

theorem crcEmit (c : Word) : Statement (.crcEmit c) := by
  intro tie f h
  cases h

theorem crcCheck (cand : List Byte) : Statement (.crcCheck cand) := by
  intro tie f h
  cases h

theorem rxChunk (bs : List Byte) : Statement (.rxChunk bs) := by
  intro tie f h
  cases h

theorem rxReset : Statement .rxReset := by
  intro tie f h
  cases h

theorem tOpen (p : String) (o : OpenOutcome) : Statement (.tOpen p o) := by
  intro tie f h
  cases h

theorem tClose : Statement .tClose := by
  intro tie f h
  cases h

theorem tLive : Statement .tLive := by
  intro tie f h
  cases h

theorem tWrite (bs : List Byte) : Statement (.tWrite bs) := by
  intro tie f h
  cases h

theorem linkLoss : Statement .linkLoss := by
  intro tie f h
  cases h

theorem connect (p : String) (o : OpenOutcome) : Statement (.connect p o) := by
  intro tie f h
  cases h

theorem disconnect : Statement .disconnect := by
  intro tie f h
  cases h

theorem startPolling (i : Option Quantity) : Statement (.startPolling i) := by
  intro tie f h
  cases h

theorem sendReadValues : Statement .sendReadValues := by
  intro tie f h
  cases h

theorem sendSetOutput (b : Bool) : Statement (.sendSetOutput b) := by
  intro tie f h
  cases h

theorem sendSetVoltage (v : Quantity) : Statement (.sendSetVoltage v) := by
  intro tie f h
  cases h

theorem sendSetCurrent (a : Quantity) : Statement (.sendSetCurrent a) := by
  intro tie f h
  cases h

theorem pollTick : Statement .pollTick := by
  intro tie f h
  cases h

theorem confirmTick (d : Delay) : Statement (.confirmTick d) := by
  intro tie f h
  cases h

theorem onResponse (r : Response) : Statement (.onResponse r) := by
  intro tie f h
  cases h

theorem subscribe (h : Handle) : Statement (.subscribe h) := by
  intro tie f h
  cases h

theorem notify (v : Rat) (i : Rat) (o : Bool) : Statement (.notify v i o) := by
  intro tie f h
  cases h

end Sys2Proof.Laws.WireForm
end

