-- ==== Sys2Proof/Laws/Reassembler.lean ====
section
/-! SUPPORT. The extraction loop told once as a pure scan of the buffer, and what the loop can do to the state:
the responses it finds are applied in order, the buffer shrinks to a resting suffix, nothing else changes. -/

namespace Sys2Proof.Machine

theorem first_eq_none {s : List Byte} {b : Byte} : first s b = none ↔ b ∉ s := by
  simp only [first, List.findIdx?_eq_none_iff, beq_eq_false_iff_ne]
  exact ⟨fun h hb => h b hb rfl, fun h x hx hxb => h (hxb ▸ hx)⟩

theorem restingBuf_iff (buf : List Byte) : restingBuf buf = true ↔ (0xF7 ∉ buf ∨ 0xFD ∉ buf) := by
  simp only [restingBuf, Bool.or_eq_true, Option.isNone_iff_eq_none, first_eq_none]
  rfl

theorem first_lt_length {s : List Byte} {b : Byte} {i : Nat} (h : first s b = some i) : i < s.length := by
  obtain ⟨hi, -⟩ := List.findIdx?_eq_some_iff_getElem.mp h
  exact hi

/-- `first` finds the byte and nothing equal to it before. -/
theorem first_eq_some {s : List Byte} {b : Byte} {i : Nat} :
    first s b = some i ↔ s[i]? = some b ∧ ∀ j < i, s[j]? ≠ some b := by
  rw [first, List.findIdx?_eq_some_iff_getElem]
  constructor
  · rintro ⟨hi, hb, hlt⟩
    refine ⟨by simpa [List.getElem?_eq_getElem hi] using hb, fun j hj => ?_⟩
    have := hlt j hj
    rw [List.getElem?_eq_getElem (by omega)]
    simpa using this
  · rintro ⟨hb, hlt⟩
    obtain ⟨hi, hb'⟩ := List.getElem?_eq_some_iff.mp hb
    refine ⟨hi, by simpa using hb', fun j hj => ?_⟩
    have := hlt j hj
    rw [List.getElem?_eq_getElem (by omega)] at this
    simpa using this

/-- The first occurrence stays first when bytes are appended. -/
theorem first_append_left {s : List Byte} (t : List Byte) {b : Byte} {i : Nat} (h : first s b = some i) :
    first (s ++ t) b = some i := by
  rw [first, List.findIdx?_append]
  rw [first] at h
  simp [h]

theorem first_append_right {s : List Byte} (t : List Byte) {b : Byte} (h : b ∉ s) :
    first (s ++ t) b = (first t b).map (· + s.length) := by
  rw [first, List.findIdx?_append]
  have := first_eq_none.mpr h
  rw [first] at this
  simp [this, first]

/-- The loop of R150 on the buffer alone: the responses decoded, in order, and the bytes that stay. -/
def scan (verify : Bool) (fuel : Nat) (buf : List Byte) : List Response × List Byte :=
  match fuel with
  | 0 => ([], buf)
  | fuel + 1 =>
    match first buf Config.addr, first buf Config.term with
    | some a, some e =>
      ((decodeCandidate verify (slice buf a e)).toList ++ (scan verify fuel (buf.drop (e + 1))).1,
        (scan verify fuel (buf.drop (e + 1))).2)
    | none, _ => ([], buf)
    | some _, none => ([], buf)

/-- The responses applied one after the other (R154). -/
def applyAll (rs : List Response) (s : State) : State := rs.foldl (fun s r => applyResponse r s) s

@[simp] theorem applyAll_nil (s : State) : applyAll [] s = s := rfl

@[simp] theorem applyAll_cons (r : Response) (rs : List Response) (s : State) :
    applyAll (r :: rs) s = applyAll rs (applyResponse r s) := rfl

theorem applyAll_append (rs rs' : List Response) (s : State) :
    applyAll (rs ++ rs') s = applyAll rs' (applyAll rs s) := List.foldl_append

/-- Everything the applying of responses can change: the three measurement registers and the notifications. -/
theorem applyAll_frame (rs : List Response) (s : State) : ∃ v i o ns,
    applyAll rs s =
      { s with dev := { s.dev with voltage := v, current := i, outputState := o }
               notifications := s.notifications ++ ns } := by
  induction rs generalizing s with
  | nil => exact ⟨s.dev.voltage, s.dev.current, s.dev.outputState, [], by simp⟩
  | cons r rs ih =>
    obtain ⟨v, i, o, ns, h⟩ := ih (applyResponse r s)
    refine ⟨v, i, o, (s.subs.map fun h =>
      { handler := h, voltage := r.voltage, current := r.current, outputState := r.outputState }) ++ ns, ?_⟩
    rw [applyAll_cons, h]
    simp [applyResponse, notifyAll]

theorem applyAll_setBuf (rs : List Response) (s : State) (b : List Byte) :
    applyAll rs { s with buf := b } = { applyAll rs s with buf := b } := by
  induction rs generalizing s with
  | nil => rfl
  | cons r rs ih => exact ih (applyResponse r s)

theorem applyAll_setResult (rs : List Response) (s : State) (x : Result) :
    applyAll rs { s with result := x } = { applyAll rs s with result := x } := by
  induction rs generalizing s with
  | nil => rfl
  | cons r rs ih => exact ih (applyResponse r s)

/-- Responses whose numbers are counts keep the DeviceState registers in their domain (R27). -/
theorem applyAll_inDomain {rs : List Response} {s : State} (h : ∀ r ∈ rs, r.isDecodable = true)
    (hd : deviceInDomain s.dev = true) : deviceInDomain (applyAll rs s).dev = true := by
  induction rs generalizing s with
  | nil => exact hd
  | cons r rs ih =>
    apply ih fun r' hr' => h r' (List.mem_cons_of_mem _ hr')
    have := h r (List.mem_cons_self ..)
    simp only [Response.isDecodable, Bool.and_eq_true] at this
    simp only [deviceInDomain, Bool.and_eq_true] at *
    exact ⟨⟨⟨this.1, this.2⟩, hd.1.2⟩, hd.2⟩

/-- The hand-over of R154 as an application of zero or one response. -/
theorem handOver_eq (cand : List Byte) (s : State) :
    handOver cand s = applyAll (decodeCandidate s.params.verifyRxCrc cand).toList s := by
  simp only [handOver]
  split <;> simp_all

/-- The loop is the pure scan: its responses applied in order, its rest left in the buffer. -/
theorem extractLoop_eq (fuel : Nat) (s : State) :
    extractLoop fuel s =
      { applyAll (scan s.params.verifyRxCrc fuel s.buf).1 s with
        buf := (scan s.params.verifyRxCrc fuel s.buf).2 } := by
  induction fuel generalizing s with
  | zero => rfl
  | succ n ih =>
    cases ha : first s.buf Config.addr with
    | none => simp [extractLoop, scan, ha]
    | some a =>
      cases he : first s.buf Config.term with
      | none => simp [extractLoop, scan, ha, he]
      | some e =>
        obtain ⟨v, i, o, ns, hf⟩ :=
          applyAll_frame (decodeCandidate s.params.verifyRxCrc (slice s.buf a e)).toList s
        have hx : extract a e s =
            { applyAll (decodeCandidate s.params.verifyRxCrc (slice s.buf a e)).toList s with
              buf := s.buf.drop (e + 1) } := by
          rw [extract, handOver_eq, hf]
          rfl
        have hp : (extract a e s).params = s.params := by rw [hx, hf]
        have hb : (extract a e s).buf = s.buf.drop (e + 1) := by rw [hx]
        simp only [extractLoop, scan, ha, he]
        rw [ih, hp, hb, hx, applyAll_setBuf, applyAll_append]

/-- Every response the scan finds is one that `decode` gave, hence in its domain (R131). -/
theorem scan_isDecodable (verify : Bool) (fuel : Nat) (buf : List Byte) :
    ∀ r ∈ (scan verify fuel buf).1, r.isDecodable = true := by
  induction fuel generalizing buf with
  | zero => simp [scan]
  | succ n ih =>
    simp only [scan]
    split
    · intro r hr
      rcases List.mem_append.mp hr with hr | hr
      · rw [Option.mem_toList] at hr
        rw [(decodeCandidate_eq_some.mp hr).2.2.2.2]
        exact measurement_isDecodable _
      · exact ih _ r hr
    · simp
    · simp

/-- The bytes the scan leaves are a suffix of the buffer (R155). -/
theorem scan_suffix (verify : Bool) (fuel : Nat) (buf : List Byte) : (scan verify fuel buf).2 <:+ buf := by
  induction fuel generalizing buf with
  | zero => exact List.suffix_refl _
  | succ n ih =>
    simp only [scan]
    split
    · exact (ih _).trans (List.drop_suffix _ _)
    · exact List.suffix_refl _
    · exact List.suffix_refl _

/-- With fuel for every byte the scan ends in a resting buffer (R159). -/
theorem scan_resting (verify : Bool) {fuel : Nat} {buf : List Byte} (h : buf.length ≤ fuel) :
    restingBuf (scan verify fuel buf).2 = true := by
  induction fuel generalizing buf with
  | zero =>
    have : buf = [] := List.eq_nil_of_length_eq_zero (by omega)
    simp [scan, restingBuf, first, this]
  | succ n ih =>
    simp only [scan]
    split
    · next a e _ he => exact ih (by have := first_lt_length he; simp; omega)
    · next h' => simp [restingBuf, h']
    · next h' => simp [restingBuf, h']

/-- Fuel beyond the buffer's length changes nothing. -/
theorem scan_fuel (verify : Bool) {m n : Nat} {buf : List Byte} (hm : buf.length ≤ m) (hn : buf.length ≤ n) :
    scan verify m buf = scan verify n buf := by
  induction m generalizing n buf with
  | zero =>
    have hb : buf = [] := List.eq_nil_of_length_eq_zero (by omega)
    cases n with
    | zero => rfl
    | succ n => simp [scan, first, hb]
  | succ m ih =>
    cases n with
    | zero =>
      have hb : buf = [] := List.eq_nil_of_length_eq_zero (by omega)
      simp [scan, first, hb]
    | succ n =>
      cases ha : first buf Config.addr with
      | none => simp [scan, ha]
      | some a =>
        cases he : first buf Config.term with
        | none => simp [scan, ha, he]
        | some e =>
          have hlt := first_lt_length he
          have hl : (buf.drop (e + 1)).length = buf.length - (e + 1) := List.length_drop
          simp only [scan, ha, he]
          rw [ih (n := n) (by omega) (by omega)]

/-- One iteration of the scan with enough fuel. -/
theorem scan_extract (verify : Bool) {n : Nat} {buf : List Byte} {a e : Nat} (hn : buf.length ≤ n)
    (ha : first buf Config.addr = some a) (he : first buf Config.term = some e) :
    scan verify n buf =
      ((decodeCandidate verify (slice buf a e)).toList ++ (scan verify n (buf.drop (e + 1))).1,
        (scan verify n (buf.drop (e + 1))).2) := by
  have hlt := first_lt_length he
  have hl : (buf.drop (e + 1)).length = buf.length - (e + 1) := List.length_drop
  cases n with
  | zero => omega
  | succ n =>
    conv_lhs => rw [scan]
    simp only [ha, he]
    rw [scan_fuel verify (m := n) (n := n + 1) (by omega) (by omega)]

/-- A resting buffer is left as it is. -/
theorem scan_of_resting (verify : Bool) (n : Nat) {buf : List Byte} (h : restingBuf buf = true) :
    scan verify n buf = ([], buf) := by
  cases n with
  | zero => rfl
  | succ n =>
    simp only [restingBuf, Bool.or_eq_true, Option.isNone_iff_eq_none] at h
    simp only [scan]
    split
    · next a e ha he => rcases h with h | h <;> simp_all
    · rfl
    · rfl

/-- What `rx_chunk` answers while live and within the capacity. -/
theorem execRxChunk_of_live {s : State} {bytes : List Byte} (hl : s.live = true)
    (hc : fitsCap s.params.rxBufCap (s.buf.length + bytes.length) = true) :
    execRxChunk bytes s =
      .next { applyAll (scan s.params.verifyRxCrc (s.buf.length + bytes.length) (s.buf ++ bytes)).1 s with
        buf := (scan s.params.verifyRxCrc (s.buf.length + bytes.length) (s.buf ++ bytes)).2
        result := .done } := by
  simp only [execRxChunk, hl, hc, Bool.not_true, Bool.false_eq_true, if_false]
  rw [complete_eq, extractLoop_eq]
  have : bufAppend bytes s = { s with buf := s.buf ++ bytes } := rfl
  rw [this, applyAll_setBuf]

/-- Everything `rx_chunk` can do when it answers a next state. -/
theorem execRxChunk_cases {bytes : List Byte} {s t : State} (h : execRxChunk bytes s = .next t) :
    (s.live = false ∧ t = { s with result := .done }) ∨
    (s.live = true ∧ fitsCap s.params.rxBufCap (s.buf.length + bytes.length) = true ∧
      ∃ v i o ns b,
        t = { s with buf := b
                     dev := { s.dev with voltage := v, current := i, outputState := o }
                     notifications := s.notifications ++ ns
                     result := .done } ∧
        b <:+ s.buf ++ bytes ∧ restingBuf b = true ∧
        (deviceInDomain s.dev = true → deviceInDomain t.dev = true)) := by
  by_cases hl : s.live = true
  · by_cases hc : fitsCap s.params.rxBufCap (s.buf.length + bytes.length) = true
    · right
      rw [execRxChunk_of_live hl hc] at h
      have hd := applyAll_inDomain (s := s)
        (scan_isDecodable s.params.verifyRxCrc (s.buf.length + bytes.length) (s.buf ++ bytes))
      obtain ⟨v, i, o, ns, hf⟩ :=
        applyAll_frame (scan s.params.verifyRxCrc (s.buf.length + bytes.length) (s.buf ++ bytes)).1 s
      rw [hf] at h hd
      cases h
      exact ⟨hl, hc, v, i, o, ns, _, rfl, scan_suffix _ _ _, scan_resting _ (by simp), hd⟩
    · simp [execRxChunk, hl, hc] at h
  · simp only [Bool.not_eq_true] at hl
    simp only [execRxChunk, hl, Bool.not_false, if_true] at h
    cases h
    exact .inl ⟨hl, rfl⟩

end Sys2Proof.Machine
end

