-- ==== Sys2Proof/Laws/Session.lean ====
section
/-! SUPPORT. The Set commands as equations on each side of their range check, and `sound` as a conjunction of
propositions, and events that are not enabled. -/

namespace Sys2Proof.Machine

/-- `send(SetVoltage(v))` past its range check. -/
theorem execSendSetVoltage_in {v : Rat} (s : State) (h0 : 0 ≤ v) (h1 : v ≤ 60) :
    execSendSetVoltage (.rational v) s =
      if isConnected s then
        complete .done (scheduleConfirm .threeTenths
          { writeLine (encodeSetVoltage s.params.roundTie v) s with dev := { s.dev with setVoltage := v } })
      else complete .done s := by
  rw [execSendSetVoltage, (inRange_eq_some (lo := Config.vMin) (hi := Config.vMax)).mpr ⟨rfl, h0, h1⟩]
  rfl

/-- `send(SetCurrent(a))` past its range check. -/
theorem execSendSetCurrent_in {a : Rat} (s : State) (h0 : 0 ≤ a) (h1 : a ≤ 6) :
    execSendSetCurrent (.rational a) s =
      if isConnected s then
        complete .done (scheduleConfirm .threeTenths
          { writeLine (encodeSetCurrent s.params.roundTie a) s with dev := { s.dev with setCurrent := a } })
      else complete .done s := by
  rw [execSendSetCurrent, (inRange_eq_some (lo := Config.iMin) (hi := Config.iMax)).mpr ⟨rfl, h0, h1⟩]
  rfl

theorem execSendSetVoltage_out {v : Quantity} (s : State) (h : inRange Config.vMin Config.vMax v = none) :
    execSendSetVoltage v s = raise .rangeError s := by
  rw [execSendSetVoltage, h]

theorem execSendSetCurrent_out {a : Quantity} (s : State) (h : inRange Config.iMin Config.iMax a = none) :
    execSendSetCurrent a s = raise .rangeError s := by
  rw [execSendSetCurrent, h]

theorem sound_iff (s : State) : sound s = true ↔
    s.conn ≠ .connecting ∧ (s.live = true → s.conn = .connected) ∧ Memory.wf s.params.rxBufCap s.buf = true ∧
      restingBuf s.buf = true ∧ deviceInDomain s.dev = true ∧ (∀ q, s.pollSched = some q → 0 < q) ∧
      s.inputs.all (·.isExternal) = true := by
  have hp : pollPositive s.pollSched = true ↔ ∀ q, s.pollSched = some q → 0 < q := by
    cases s.pollSched <;> simp [pollPositive]
  have hl : (s.live = false ∨ s.conn = .connected) ↔ (s.live = true → s.conn = .connected) := by
    cases s.live <;> simp
  simp only [sound, Bool.and_eq_true, bne_iff_ne, ne_eq, Bool.or_eq_true, beq_iff_eq, Bool.not_eq_true']
  rw [hp, hl]
  tauto

theorem deviceInDomain_zero : deviceInDomain DeviceState.zero = true := by decide +kernel

/-- An external event that R236 does not enable changes nothing but the returned value (log 8). -/
theorem exec_of_not_enabled {i : Instr} {s : State} (hx : i.isExternal = true) (h : enabled s i = false) :
    exec i s = .next { s with result := .done } := by
  cases i <;> simp [Instr.isExternal, Instr.callers] at hx <;> simp [enabled] at h
  case rxChunk bytes =>
    show execRxChunk bytes s = _
    simp [execRxChunk, h, complete]
  case linkLoss =>
    show complete .done (closeLine s) = _
    rw [closeLine_of_not_live h]
    rfl
  case pollTick =>
    show execPollTick s = _
    simp [execPollTick, h, complete]
  case confirmTick d =>
    show execConfirmTick d s = _
    simp [execConfirmTick, h, complete]

end Sys2Proof.Machine
end

