-- ==== Sys2Proof/Tests/Slice0.lean ====
section
/-! SUPPORT. Tests on values of the spec's own vectors (spec/95_test_vectors.md, named by their ids), the smoke tests
of the checks of WellFormed.lean, the decoding of words written out bit by bit, and for every statement with
hypotheses a witness that meets them. -/

set_option Elab.async false

namespace Sys2Proof.Machine

/-! ### Helpers -/

/-- The next state, where there is one. -/
def stateOf (o : Host.Outcome State Fault Refusal) : Option State :=
  match o with
  | .next s => some s
  | .fault _ => none
  | .refused _ => none

/-- The refusal, where there is one. -/
def refusalOf (o : Host.Outcome State Fault Refusal) : Option Refusal :=
  match o with
  | .next _ => none
  | .fault _ => none
  | .refused r => some r

/-- What an operation hands back when it is run in a state. -/
def resultOf (i : Instr) (s : State) : Option Result := (stateOf (exec i s)).map (·.result)

/-- The state after V-SES1: connected over a live line. -/
def connectedState : State := { State.reset with live := true, conn := .connected, port := some "A" }

/-- A connected machine with `VERIFY_RX_CRC`. -/
def verifyingState : State := { connectedState with params := { defaultParams with verifyRxCrc := true } }

/-- The poll frame `POLL` of the vectors. -/
def pollFrame : List Byte := [0xF7, 0x01, 0x03, 0x04, 0x03, 0x62, 0xE8, 0xFD]

/-- The response frame `RA` of the vectors: on, 5.14 V, 0.200 A. -/
def frameRA : List Byte := [0xF7, 0x01, 0x03, 0x04, 0x03, 0x61, 0x00, 0x02, 0x02, 0x00, 0xC8, 0xC1, 0xCA, 0xFD]

/-- The response frame `RB`: off, 12.00 V, 1.500 A. -/
def frameRB : List Byte := [0xF7, 0x01, 0x03, 0x04, 0x03, 0x00, 0x00, 0x04, 0xB0, 0x05, 0xDC, 0x6A, 0x4B, 0xFD]

/-- The response in `RA`. -/
def responseRA : Response := { outputState := true, voltage := 514 / 100, current := 200 / 1000 }

/-! ### WellFormed: each check refuses an ill-formed term -/

/-- R110: 13 bytes are no candidate of `crc_check`. -/
theorem test_wf_crcCheck :
    (Instr.crcCheck (frameRA.take 13)).wellFormed = false ∧ (Instr.crcCheck frameRA).wellFormed = true := by
  decide

/-- R174: a frame without its terminator is no encoded frame. -/
theorem test_wf_tWrite :
    (Instr.tWrite (pollFrame.take 7)).wellFormed = false ∧ (Instr.tWrite pollFrame).wellFormed = true := by
  decide +kernel

/-- R198: zero, a negative number and what is no number are no intervals. -/
theorem test_wf_startPolling :
    (Instr.startPolling (some (.rational 0))).wellFormed = false ∧
    (Instr.startPolling (some (.rational (-1)))).wellFormed = false ∧
    (Instr.startPolling (some .notANumber)).wellFormed = false ∧
    (Instr.startPolling none).wellFormed = true := by
  decide +kernel

/-- R131: one third of a volt, and one count more than 16 bits hold, are no decoded values. -/
theorem test_wf_onResponse :
    (Instr.onResponse { outputState := true, voltage := 1 / 3, current := 0 }).wellFormed = false ∧
    (Instr.onResponse { outputState := true, voltage := 0, current := 65536 / 1000 }).wellFormed = false ∧
    (Instr.onResponse responseRA).wellFormed = true := by
  decide +kernel

/-- R134: 5.146 V and -0.001 A are off the grid, and 13 bytes are no response frame. -/
theorem test_onGrid_refuses :
    (Instr.setVoltage (5146 / 1000)).onGrid = false ∧ (Instr.setCurrent (-1 / 1000)).onGrid = false ∧
    (Instr.statusResponse (frameRA.take 13)).onGrid = false ∧ (Instr.setVoltage (514 / 100)).onGrid = true := by
  decide +kernel

/-- R88: `rx_reset` is internal, `rx_chunk` comes from the line. -/
theorem test_external : Instr.rxReset.isExternal = false ∧ (Instr.rxChunk []).isExternal = true := by
  decide

/-- R10, R40: a buffer longer than a finite capacity has not the canonical form. -/
theorem test_memory_wf :
    Memory.wf (some 1) [0, 1] = false ∧ Memory.wf (some 2) [0, 1] = true ∧ Memory.wf none frameRA = true := by
  decide

/-! ### Decoding: words written out bit by bit from the encodings of R73, R74, R76 -/

/-- V-ENC20. -/
theorem test_decode_readValues :
    decodeFrame [0b11110111, 0b00000001, 0b00000011, 0b00000100, 0b00000011, 0b01100010,
      0b11101000, 0b11111101] =
      .ok .readValues := by
  decide +kernel

/-- V-ENC21. -/
theorem test_decode_setOutput_true :
    decodeFrame [0b11110111, 0b00000001, 0b00001010, 0b00011110, 0b00000001, 0b00000000,
      0b00000001, 0b10010010, 0b00110111, 0b11111101] =
      .ok (.setOutput true) := by
  decide +kernel

/-- V-ENC22. -/
theorem test_decode_setOutput_false :
    decodeFrame [0b11110111, 0b00000001, 0b00001010, 0b00011110, 0b00000001, 0b00000000,
      0b00000000, 0b01010011, 0b11110111, 0b11111101] =
      .ok (.setOutput false) := by
  decide +kernel

/-- V-ENC25. -/
theorem test_decode_setVoltage :
    decodeFrame [0b11110111, 0b00000001, 0b00001010, 0b00001001, 0b00000001, 0b00010111,
      0b01110000, 0b01011000, 0b01010111, 0b11111101] =
      .ok (.setVoltage 60) := by
  decide +kernel

/-- V-ENC42. -/
theorem test_decode_setCurrent :
    decodeFrame [0b11110111, 0b00000001, 0b00001010, 0b00001010, 0b00000001, 0b00000000,
      0b11111101, 0b10010111, 0b10000110, 0b11111101] =
      .ok (.setCurrent (253 / 1000)) := by
  decide +kernel

/-- V-DEC1: a frame of 14 bytes between its markers is a response, its own operand. -/
theorem test_decode_statusResponse :
    decodeFrame
      [0b11110111, 0b00000001, 0b00000011, 0b00000100, 0b00000011, 0b01100001, 0b00000000,
       0b00000010, 0b00000010, 0b00000000, 0b11001000, 0b11000001, 0b11001010, 0b11111101] =
      .ok (.statusResponse frameRA) := by
  decide +kernel

/-- R84: an opcode the block never emits, bit 1 of the output operand set, and the literal of doc00 that C1 rejects. -/
theorem test_decode_rejects_unknown :
    decodeFrame [0xF7, 0x01, 0x0A, 0x1F, 0x01, 0x00, 0x01, 0x92, 0x37, 0xFD] = .error .unknownCommand ∧
    decodeFrame [0xF7, 0x01, 0x0A, 0x1E, 0x01, 0x00, 0x02, 0x92, 0x37, 0xFD] = .error .unknownCommand ∧
    decodeFrame [0xF7, 0x01, 0x03, 0x04, 0x03, 0x03, 0x04, 0xFD] = .error .unknownCommand := by
  decide +kernel

/-- R70, R71: a wrong length, a wrong first byte, a wrong last byte. -/
theorem test_decode_rejects_form :
    decodeFrame (frameRA.take 13) = .error .badLength ∧
    decodeFrame [0x00, 0x01, 0x03, 0x04, 0x03, 0x62, 0xE8, 0xFD] = .error .badAddress ∧
    decodeFrame [0xF7, 0x01, 0x03, 0x04, 0x03, 0x62, 0xE8, 0x00] = .error .badTerminator := by
  decide +kernel

/-- The bits of `SetVoltage(5.14)` (V-ENC23), and of a wrong opcode, numbered from byte 0. -/
theorem test_decodeTableWord :
    decodeTableWord 80 0xFDE2D60202_01090A01F7 = some (.setVoltage (514 / 100)) ∧
    decodeTableWord 80 0xFDE2D60202_01080A01F7 = none := by
  decide +kernel

/-- A placed wire pattern is run by the very next step, as the first operation after reset; a pattern of no row stops
it by name. -/
theorem test_step_runs_placed_word :
    (stateOf (step (State.reset.withFetchWord 64 0xFDE86203_040301F7))).map (·.result) = some (.bytes pollFrame) ∧
    refusalOf (step (State.reset.withFetchWord 64 0xFDE86203_040302F7)) = some (.undecodable .unknownCommand) := by
  decide +kernel

/-- R249: with nothing offered the block holds all its state. -/
theorem test_step_idle : stateOf (step connectedState) = some connectedState := by
  decide +kernel

/-! ### The Frame Codec -/

/-- V-ENC20. -/
theorem test_encode_readValues : resultOf .readValues State.reset = some (.bytes pollFrame) := by
  decide +kernel

/-- V-ENC22. -/
theorem test_encode_setOutput :
    resultOf (.setOutput false) State.reset = some (.bytes [0xF7, 0x01, 0x0A, 0x1E, 0x01, 0x00, 0x00, 0x53, 0xF7, 0xFD]) := by
  decide +kernel

/-- V-ENC30: 514.6 rounds up, the CRC is low byte first. -/
theorem test_encode_setVoltage :
    resultOf (.setVoltage (5146 / 1000)) State.reset =
      some (.bytes [0xF7, 0x01, 0x0A, 0x09, 0x01, 0x02, 0x03, 0x17, 0x22, 0xFD]) := by
  decide +kernel

/-- V-ENC41. -/
theorem test_encode_setCurrent :
    resultOf (.setCurrent (247 / 100)) State.reset =
      some (.bytes [0xF7, 0x01, 0x0A, 0x0A, 0x01, 0x09, 0xA6, 0xD0, 0x2D, 0xFD]) := by
  decide +kernel

/-- V-ENC6, V-ENC7, V-ENC10: exact ties under the default rule and under half-to-even. -/
theorem test_scale16_ties :
    scale16 .halfAwayFromZero (5 / 1000) 100 = 1 ∧ scale16 .halfToEven (5 / 1000) 100 = 0 ∧
    scale16 .halfAwayFromZero (125 / 1000) 100 = 13 ∧ scale16 .halfToEven (125 / 1000) 100 = 12 ∧
    scale16 .halfAwayFromZero (5 / 10000) 1000 = 1 := by
  decide +kernel

/-- V-ENC11, V-ENC12, V-ENC13: saturation, not wrapping. -/
theorem test_scale16_saturates :
    scale16 .halfAwayFromZero 700 100 = 65535 ∧ scale16 .halfAwayFromZero (65536 / 100) 100 = 65535 ∧
    scale16 .halfAwayFromZero (65535 / 100) 100 = 65535 ∧ scale16 .halfAwayFromZero (-1) 100 = 0 := by
  decide +kernel

/-- V-DEC1 and V-DEC18: the scenario frame, and the same with two bytes after its terminator. -/
theorem test_decode_scenario :
    resultOf (.statusResponse frameRA) State.reset = some (.decoded (some responseRA)) ∧
    resultOf (.statusResponse (frameRA ++ [0x00, 0x01])) State.reset = some (.decoded (some responseRA)) := by
  decide +kernel

/-- V-DEC10, V-DEC13, V-DEC16, V-DEC17: a wrong CRC when it is verified, 13 bytes, and each marker wrong. -/
theorem test_decode_none :
    resultOf (.statusResponse [0xF7, 0x01, 0x03, 0x04, 0x03, 0x61, 0x00, 0x02, 0x02, 0x00, 0xC8, 0x00, 0x00, 0xFD])
      verifyingState = some (.decoded none) ∧
    resultOf (.statusResponse (frameRA.take 13)) State.reset = some (.decoded none) ∧
    resultOf (.statusResponse (0x00 :: frameRA.drop 1)) State.reset = some (.decoded none) ∧
    resultOf (.statusResponse (frameRA.take 13 ++ [0x00])) State.reset = some (.decoded none) := by
  decide +kernel

/-! ### The Checksum unit -/

/-- R101, from the register value of V-CRC14. -/
theorem test_crcSeed :
    (stateOf (exec .crcSeed { State.reset with crc := 0x3792 })).map (·.crc) = some 0xFFFF := by
  decide +kernel

/-- V-CRC26. -/
theorem test_crcBit :
    (stateOf (exec .crcBit { State.reset with crc := 0x0001 })).map (·.crc) = some 0xA001 ∧
    (stateOf (exec .crcBit { State.reset with crc := 0x8000 })).map (·.crc) = some 0x4000 := by
  decide +kernel

/-- V-CRC24 and V-CRC25. -/
theorem test_crcByte :
    (stateOf (exec (.crcByte 0xF7) State.reset)).map (·.crc) = some 0xC6FE ∧
    (stateOf (exec (.crcByte 0x01) { State.reset with crc := 0xC6FE })).map (·.crc) = some 0x4086 := by
  decide +kernel

/-- V-CRC12: the nine ASCII bytes "123456789". -/
theorem test_crc16Modbus :
    resultOf (.crc16Modbus [0x31, 0x32, 0x33, 0x34, 0x35, 0x36, 0x37, 0x38, 0x39]) State.reset =
      some (.word 0x4B37) := by
  decide +kernel

/-- V-CRC18 and V-CRC1. -/
theorem test_crc16Modbus_ends :
    resultOf (.crc16Modbus (frameRA.take 11)) State.reset = some (.word 0xCAC1) ∧
    resultOf (.crc16Modbus []) State.reset = some (.word 0xFFFF) := by
  decide +kernel

/-- R105. -/
theorem test_crcEmit : resultOf (.crcEmit 0xE862) State.reset = some (.bytes [0x62, 0xE8]) := by
  decide +kernel

/-- V-CRC28, V-CRC29, and that 13 bytes end no run (log 12). -/
theorem test_crcCheck :
    resultOf (.crcCheck frameRA) State.reset = some (.flag true) ∧
    resultOf (.crcCheck [0xF7, 0x01, 0x03, 0x04, 0x03, 0x61, 0x00, 0x02, 0x02, 0x00, 0xC8, 0x00, 0x00, 0xFD]) State.reset =
      some (.flag false) ∧
    (stateOf (exec (.crcCheck (frameRA.take 13)) State.reset)).isSome = true := by
  decide +kernel

/-! ### The Stream Reassembler -/

/-- V-RX4 with the two subscribers of P1: garbage with an early terminator, then a frame. -/
theorem test_rxChunk_garbage :
    (stateOf (exec (.rxChunk ([0x00, 0xFD, 0x12] ++ frameRA)) { connectedState with subs := [1, 2] })).map
      (fun t => (t.buf, t.notifications)) =
      some ([], [{ handler := 1, voltage := 514 / 100, current := 200 / 1000, outputState := true },
                 { handler := 2, voltage := 514 / 100, current := 200 / 1000, outputState := true }]) := by
  decide +kernel

/-- V-RX13: a terminator value inside the data; the tail stays and nothing is decoded. -/
theorem test_rxChunk_terminator_in_data :
    (stateOf (exec (.rxChunk [0xF7, 0x01, 0x03, 0x04, 0x03, 0x61, 0x00, 0x00, 0xFD, 0x00, 0xC8, 0xF0, 0x42, 0xFD])
      connectedState)).map (fun t => (t.buf, t.dev)) =
      some ([0x00, 0xC8, 0xF0, 0x42, 0xFD], DeviceState.zero) := by
  decide +kernel

/-- V-RX19. -/
theorem test_rxReset :
    (stateOf (exec .rxReset { connectedState with buf := [0xF7, 0x01, 0x03] })).map (·.buf) = some [] := by
  decide +kernel

/-! ### The Transport -/

/-- V-TR1 and V-TR2. -/
theorem test_tOpen :
    (stateOf (exec (.tOpen "/dev/ttyUSB0" .ok) State.reset)).map (·.live) = some true ∧
    resultOf (.tOpen "/dev/nope" (.err "No such file or directory")) State.reset =
      some (.raised (.connectionError "No such file or directory")) := by
  decide +kernel

/-- V-TR3. -/
theorem test_tClose : (stateOf (exec .tClose connectedState)).map (·.live) = some false := by
  decide +kernel

/-- V-TR9. -/
theorem test_tLive :
    resultOf .tLive connectedState = some (.flag true) ∧ resultOf .tLive State.reset = some (.flag false) := by
  decide +kernel

/-- V-TR5 and V-TR6. -/
theorem test_tWrite :
    (stateOf (exec (.tWrite pollFrame) { connectedState with tx := [0x55] })).map (·.tx) =
      some (0x55 :: pollFrame) ∧
    (stateOf (exec (.tWrite pollFrame) State.reset)).map (·.tx) = some [] := by
  decide +kernel

/-- V-TR7. -/
theorem test_linkLoss :
    (stateOf (exec .linkLoss connectedState)).map (fun t => (t.live, t.conn)) = some (false, .connected) := by
  decide +kernel

/-! ### The Session -/

/-- The state of V-SES25 and V-SES3: a partial frame, a schedule, a pending confirmation, measurements. -/
def busyState : State :=
  { connectedState with
    buf := [0xF7, 0x01, 0x03]
    pollSched := some 2
    confirmPending := { half := 0, threeTenths := 1 }
    subs := [1]
    dev := { voltage := 514 / 100, current := 2 / 10, outputState := true, setVoltage := 12, setCurrent := 0 } }

/-- V-SES25. -/
theorem test_connect :
    stateOf (exec (.connect "B" .ok) busyState) =
      some { busyState with port := some "B", buf := [], dev := DeviceState.zero } := by
  decide +kernel

/-- V-SES3: a failed reconnect. -/
theorem test_connect_fails :
    stateOf (exec (.connect "B" (.err "m")) busyState) =
      some { busyState with conn := .disconnected, live := false, result := .raised (.connectionError "m") } := by
  decide +kernel

/-- V-SES20, without and with `CONFIRM_CANCEL_ON_DISCONNECT`. -/
theorem test_disconnect :
    stateOf (exec .disconnect busyState) =
      some { busyState with conn := .disconnected, live := false, pollSched := none } ∧
    (stateOf (exec .disconnect
      { busyState with params := { defaultParams with confirmCancelOnDisconnect := true } })).map
      (·.confirmPending) = some Confirms.empty := by
  decide +kernel

/-- V-SES15 and V-SES16. -/
theorem test_startPolling :
    (stateOf (exec (.startPolling (some (.rational (1 / 4)))) busyState)).map (fun t => (t.pollSched, t.tx)) =
      some (some (1 / 4), pollFrame) ∧
    (stateOf (exec (.startPolling none) State.reset)).map (fun t => (t.pollSched, t.tx)) = some (some 1, []) := by
  decide +kernel

/-- R198, D18: zero is refused. -/
theorem test_startPolling_refuses :
    refusalOf (exec (.startPolling (some (.rational 0))) connectedState) = some .intervalOutsideDomain := by
  decide +kernel

/-- R200. -/
theorem test_sendReadValues :
    (stateOf (exec .sendReadValues connectedState)).map (·.tx) = some pollFrame ∧
    (stateOf (exec .sendReadValues State.reset)).map (·.tx) = some [] := by
  decide +kernel

/-- V-SES7 and V-SES24. -/
theorem test_sendSetOutput :
    (stateOf (exec (.sendSetOutput false) busyState)).map (fun t => (t.dev.outputState, t.confirmPending, t.tx)) =
      some (false, { half := 1, threeTenths := 1 }, [0xF7, 0x01, 0x0A, 0x1E, 0x01, 0x00, 0x00, 0x53, 0xF7, 0xFD]) ∧
    stateOf (exec (.sendSetOutput true) { connectedState with live := false }) =
      some { connectedState with live := false } := by
  decide +kernel

/-- V-SES9: the register takes the asked value, the wire the rounded one. -/
theorem test_sendSetVoltage :
    (stateOf (exec (.sendSetVoltage (.rational (5146 / 1000))) connectedState)).map
      (fun t => (t.dev.setVoltage, t.dev.voltage, t.confirmPending.threeTenths, t.tx)) =
      some (5146 / 1000, 0, 1, [0xF7, 0x01, 0x0A, 0x09, 0x01, 0x02, 0x03, 0x17, 0x22, 0xFD]) := by
  decide +kernel

/-- V-ERR3, V-ERR4, D7. -/
theorem test_sendSetVoltage_range :
    resultOf (.sendSetVoltage (.rational (6001 / 100))) connectedState = some (.raised .rangeError) ∧
    resultOf (.sendSetVoltage (.rational 61)) State.reset = some (.raised .rangeError) ∧
    resultOf (.sendSetVoltage .notANumber) connectedState = some (.raised .rangeError) ∧
    resultOf (.sendSetVoltage (.rational 60)) connectedState = some .done := by
  decide +kernel

/-- V-SES10. -/
theorem test_sendSetCurrent :
    (stateOf (exec (.sendSetCurrent (.rational (2 / 10))) connectedState)).map
      (fun t => (t.dev.setCurrent, t.confirmPending.threeTenths, t.tx)) =
      some (2 / 10, 1, [0xF7, 0x01, 0x0A, 0x0A, 0x01, 0x00, 0xC8, 0x57, 0x91, 0xFD]) := by
  decide +kernel

/-- V-ERR2, V-ERR3. -/
theorem test_sendSetCurrent_range :
    resultOf (.sendSetCurrent (.rational 7)) connectedState = some (.raised .rangeError) ∧
    resultOf (.sendSetCurrent (.rational (-1 / 1000))) connectedState = some (.raised .rangeError) := by
  decide +kernel

/-- V-SES17. -/
theorem test_pollTick :
    (stateOf (exec .pollTick busyState)).map (fun t => (t.pollSched, t.tx)) = some (some 2, pollFrame) := by
  decide +kernel

/-- V-SES18 and V-SES19. -/
theorem test_confirmTick :
    (stateOf (exec (.confirmTick .threeTenths) busyState)).map (fun t => (t.confirmPending, t.tx)) =
      some (Confirms.empty, pollFrame) ∧
    (stateOf (exec (.confirmTick .half) { State.reset with confirmPending := { half := 1, threeTenths := 0 } })).map
      (fun t => (t.confirmPending, t.tx)) = some (Confirms.empty, []) := by
  decide +kernel

/-- V-SES22. -/
theorem test_onResponse :
    (stateOf (exec (.onResponse responseRA)
      { connectedState with subs := [1], dev := { DeviceState.zero with setVoltage := 5, setCurrent := 1 } })).map
      (fun t => (t.dev, t.notifications)) =
      some ({ voltage := 514 / 100, current := 200 / 1000, outputState := true, setVoltage := 5, setCurrent := 1 },
        [{ handler := 1, voltage := 514 / 100, current := 200 / 1000, outputState := true }]) := by
  decide +kernel

/-- R214, D12: duplicates are kept. -/
theorem test_subscribe :
    (stateOf (exec (.subscribe 1) { State.reset with subs := [1] })).map (·.subs) = some [1, 1] := by
  decide +kernel

/-- R215: registration order. -/
theorem test_notify :
    (stateOf (exec (.notify 1 2 true) { State.reset with subs := [7, 3] })).map
      (fun t => t.notifications.map (·.handler)) = some [7, 3] := by
  decide +kernel

/-! ### Witnesses: for every statement with hypotheses, values that meet them, each clause by its own -/

theorem witness_EncodeSetVoltageFrame :
    (-1 / 100 : Rat) * 100 < 0 ∧ (65535 : Rat) < 65536 / 100 * 100 ∧
    (0 : Rat) ≤ 65535 / 100 * 100 ∧ (65535 / 100 : Rat) * 100 ≤ 65535 := by
  norm_num

theorem witness_EncodeSetCurrentFrame :
    (-1 / 1000 : Rat) * 1000 < 0 ∧ (65535 : Rat) < 65536 / 1000 * 1000 ∧
    (0 : Rat) ≤ 65535 / 1000 * 1000 ∧ (65535 / 1000 : Rat) * 1000 ≤ 65535 := by
  norm_num

/-- The tie `12.5` and its mirror image, and zero. -/
theorem witness_RoundingIsNearestHalfAwayFromZero :
    (0 : Rat) ≤ 0 ∧ (0 : Rat) ≤ 25 / 2 ∧ (-25 / 2 : Rat) < 0 ∧
    roundRat .halfAwayFromZero (25 / 2) = 13 ∧ roundRat .halfAwayFromZero (-25 / 2) = -13 := by
  decide +kernel

theorem witness_ScalingRoundTrip :
    6000 ≤ 6000 ∧ (scale16 .halfToEven ((6000 : Nat) / 100 : Rat) 100).toNat = 6000 ∧
    (0 : Rat) ≤ 60 ∧ (60 : Rat) ≤ 60 ∧ (0 : Rat) ≤ 6 ∧ (6 : Rat) ≤ 6 := by
  decide +kernel

theorem witness_DecodeReadsMeasurementFields : connectedState.params.verifyRxCrc = false := by
  decide

theorem witness_DecodeVerifiesCrcWhenAsked :
    verifyingState.params.verifyRxCrc = true ∧
    resultOf (.statusResponse frameRA) verifyingState = some (.decoded (some responseRA)) := by
  decide +kernel

/-- Each of the three reasons alone. -/
theorem witness_DecodeDropsMalformedCandidates :
    (frameRA.take 13).length < 14 ∧ (0x00 :: frameRA.drop 1)[0]? ≠ some 0xF7 ∧
    (frameRA.take 13 ++ [0x00])[13]? ≠ some 0xFD := by
  decide

/-- V-DEC9 against V-DEC18. -/
theorem witness_DecodeIgnoresUnexaminedBits :
    ∃ cand cand' : List Byte, connectedState.params.verifyRxCrc = false ∧ 14 ≤ cand.length ∧ 14 ≤ cand'.length ∧
      cand ≠ cand' ∧ (∀ i ∈ [0, 7, 8, 9, 10, 13], cand[i]? = cand'[i]?) ∧
      (∀ b b' : Byte, cand[5]? = some b → cand'[5]? = some b' → b.getLsbD 5 = b'.getLsbD 5) := by
  refine ⟨frameRA ++ [0x00, 0x01], [0xF7, 0xAA, 0xBB, 0xCC, 0xDD, 0x61, 0x00, 0x02, 0x02, 0x00, 0xC8, 0xC1, 0xCA, 0xFD],
    rfl, by decide, by decide, by decide, by decide, ?_⟩
  intro b b' h h'
  have hb : some (0x61 : Byte) = some b := h
  have hb' : some (0x61 : Byte) = some b' := h'
  rw [← Option.some.inj hb, ← Option.some.inj hb']

theorem witness_CommandFramesNeverDecode :
    encode .halfAwayFromZero .readValues = some pollFrame ∧ ∀ cand, Instr.readValues ≠ .statusResponse cand :=
  ⟨by decide +kernel, fun _ => Instr.noConfusion⟩

theorem witness_SentFramesHaveZeroResidue :
    encode .halfToEven (.setVoltage 60) = some [0xF7, 0x01, 0x0A, 0x09, 0x01, 0x17, 0x70, 0x58, 0x57, 0xFD] ∧
    ∀ cand, Instr.setVoltage 60 ≠ .statusResponse cand :=
  ⟨by decide +kernel, fun _ => Instr.noConfusion⟩

/-- Every wire row, at the ends of its operand. -/
theorem witness_DecodeEncodeRoundTrip :
    Instr.readValues.onGrid = true ∧ (Instr.setOutput true).onGrid = true ∧ (Instr.setVoltage 0).onGrid = true ∧
    (Instr.setVoltage (65535 / 100)).onGrid = true ∧ (Instr.setCurrent (65535 / 1000)).onGrid = true ∧
    (Instr.statusResponse frameRA).onGrid = true := by
  decide +kernel

/-- A response, and a command whose CRC bytes are wrong. -/
theorem witness_ReencodingKeepsPayload :
    decodeFrame frameRA = .ok (.statusResponse frameRA) ∧
    decodeFrame [0xF7, 0x01, 0x0A, 0x09, 0x01, 0x02, 0x02, 0x00, 0x00, 0xFD] = .ok (.setVoltage (514 / 100)) := by
  decide +kernel

theorem witness_WireRowsAreDisjoint :
    ∃ r ∈ wireTable, r.isInstance pollFrame = true := by
  decide +kernel

/-- Each clause: 9 bytes; 14 bytes without the address byte; 8 bytes without the terminator. -/
theorem witness_NonFramesRejectedByName :
    ((List.replicate 9 0xF7 : List Byte).length ≠ 8 ∧ (List.replicate 9 0xF7 : List Byte).length ≠ 10 ∧
      (List.replicate 9 0xF7 : List Byte).length ≠ 14) ∧
    ((0x00 :: frameRA.drop 1).length = 14 ∧ (0x00 :: frameRA.drop 1).head? ≠ some 0xF7) ∧
    ((pollFrame.take 7 ++ [0x00]).length = 8 ∧ (pollFrame.take 7 ++ [0x00]).head? = some 0xF7 ∧
      (pollFrame.take 7 ++ [0x00]).getLast? ≠ some 0xFD) := by
  decide

/-- The inner hypothesis: one more byte always answers. -/
theorem witness_CrcModbusFoldsBytesInOrder :
    exec (.crcByte 0xF7) { connectedState with crc := 0xFFFF } =
      .next { connectedState with crc := 0xC6FE, result := .done } := by
  rw [show (0xC6FE : Word) = crcByteStep 0xFFFF 0xF7 by decide]
  rfl

theorem witness_CrcCheckComparesTrailer :
    (frameRA.take 13).length < 14 ∧ resultOf (.crcCheck frameRA) connectedState = some (.flag true) := by
  decide +kernel

/-- Both markers in place with an ordinary and with an inverted range, and each marker missing. -/
theorem witness_RxLoopExtractsAtFirstMarkers :
    connectedState.live = true ∧
    fitsCap connectedState.params.rxBufCap (connectedState.buf.length + frameRA.length) = true ∧
    first (connectedState.buf ++ frameRA) 0xF7 = some 0 ∧ first (connectedState.buf ++ frameRA) 0xFD = some 13 ∧
    decodeCandidate false (slice (connectedState.buf ++ frameRA) 0 13) = some responseRA ∧
    stateOf (exec (.onResponse responseRA) connectedState) =
      some { connectedState with
        dev := { voltage := 514 / 100, current := 200 / 1000, outputState := true, setVoltage := 0, setCurrent := 0 } } ∧
    first (connectedState.buf ++ [0x00, 0xFD, 0xF7]) 0xF7 = some 2 ∧
    first (connectedState.buf ++ [0x00, 0xFD, 0xF7]) 0xFD = some 1 ∧
    decodeCandidate false (slice (connectedState.buf ++ [0x00, 0xFD, 0xF7]) 2 1) = none ∧
    0xF7 ∉ connectedState.buf ++ [0xFD, 0xFD, 0xFD] ∧ 0xFD ∉ connectedState.buf ++ [0xF7, 0xF7, 0xF7] := by
  decide +kernel

theorem witness_RxChunkEndsRestingAndFrames :
    busyState.live = true ∧ fitsCap busyState.params.rxBufCap (busyState.buf.length + frameRA.length) = true := by
  decide

/-- A finite capacity, met exactly. -/
theorem witness_RxChunkEndsRestingAndFrames_finite :
    fitsCap (some 17) (busyState.buf.length + frameRA.length) = true := by
  decide

theorem witness_OnlyFourteenByteCandidatesDecode :
    first frameRA 0xF7 = some 0 ∧ first frameRA 0xFD = some 13 ∧
    decodeCandidate true (slice frameRA 0 13) = some responseRA := by
  decide +kernel

/-- V-RX10: terminators as garbage. -/
theorem witness_RxGarbageThenFrameDecodesOnce :
    connectedState.live = true ∧ fitsCap connectedState.params.rxBufCap (connectedState.buf.length + (3 + 14)) = true ∧
    connectedState.params.verifyRxCrc = false ∧
    0xF7 ∉ connectedState.buf ++ [0xFD, 0xFD, 0xFD] ∧
    (0xFD : Byte) ∉ ([0x01, 0x03, 0x04, 0x03, 0x61, 0x00, 0x02, 0x02, 0x00, 0xC8, 0xC1, 0xCA] : List Byte) := by
  decide

/-- V-RX18, in a buffer with room for just that frame. -/
theorem witness_RxStrayStartLosesNextFrame :
    busyState.live = true ∧ fitsCap (some 17) (busyState.buf.length + 14) = true ∧
    fitsCap busyState.params.rxBufCap (busyState.buf.length + 14) = true ∧ 0xF7 ∈ busyState.buf ∧ 0xFD ∉ busyState.buf ∧
    (0xFD : Byte) ∉ ([0x01, 0x03, 0x04, 0x03, 0x61, 0x00, 0x02, 0x02, 0x00, 0xC8, 0xC1, 0xCA] : List Byte) := by
  decide

/-- V-RX15 repeated by the device: the terminator value at index 12, the tail of the last such frame still held. -/
theorem witness_RxTerminatorInDataLosesFrame :
    { connectedState with buf := [0xFD] }.live = true ∧
    fitsCap connectedState.params.rxBufCap ([0xFD].length + 14) = true ∧
    0xF7 ∉ { connectedState with buf := [0xFD] }.buf ∧ 0xF7 ∉ connectedState.buf ∧
    (0xFD : Byte) ∈ ([0x01, 0x03, 0x04, 0x03, 0x20, 0x00, 0x02, 0x34, 0x03, 0xE8, 0x2F, 0xFD] : List Byte) := by
  decide

/-- V-RX3. -/
theorem witness_RxChunkBoundariesDoNotMatter :
    fitsCap connectedState.params.rxBufCap
      (connectedState.buf.length + (frameRA.take 6 ++ frameRA.drop 6).length) = true ∧ State.reset.live ≠ true ∧
    ((stateOf (exec (.rxChunk (frameRA.take 6)) connectedState)).bind
      fun t => stateOf (exec (.rxChunk (frameRA.drop 6)) t)) = stateOf (exec (.rxChunk frameRA) connectedState) := by
  decide +kernel

/-- One byte too many. -/
theorem witness_RxOverflowRefused :
    { busyState with params := { defaultParams with rxBufCap := some 16 } }.live = true ∧
    16 < busyState.buf.length + frameRA.length := by
  decide

theorem witness_TWriteAppendsWhenLive : connectedState.live = true ∧ State.reset.live = false := by
  decide

theorem witness_TransportNoOpsWhenNotLive :
    State.reset.live = false ∧
    (stateOf (exec (.tWrite pollFrame) connectedState)).map (·.result) = some .done := by
  decide +kernel

/-- The default, the least kind of positive interval, and the domain's edge. -/
theorem witness_StartPollingSchedulesAndPolls :
    ((none : Option Quantity) = none ∧ (1 : Rat) = 1) ∧ (0 : Rat) < 1 / 1000 ∧ (0 : Rat) ≤ 0 := by
  norm_num

theorem witness_SendReadValuesWritesPoll :
    (connectedState.conn = .connected ∧ connectedState.live = true) ∧
    ¬(State.reset.conn = .connected ∧ State.reset.live = true) := by
  decide

/-- V-SES24: `Connected` over a dead line is not connected. -/
theorem witness_SendSetOutputUpdatesOptimistically :
    (connectedState.conn = .connected ∧ connectedState.live = true) ∧
    ¬({ connectedState with live := false }.conn = .connected ∧ { connectedState with live := false }.live = true) := by
  decide

/-- V-SES11: both ends. -/
theorem witness_SendSetVoltageSendsAndRecords :
    connectedState.conn = .connected ∧ connectedState.live = true ∧ (0 : Rat) ≤ 0 ∧ (0 : Rat) ≤ 60 ∧ (60 : Rat) ≤ 60 := by
  decide +kernel

/-- V-SES12: both ends. -/
theorem witness_SendSetCurrentSendsAndRecords :
    connectedState.conn = .connected ∧ connectedState.live = true ∧ (0 : Rat) ≤ 0 ∧ (0 : Rat) ≤ 6 ∧ (6 : Rat) ≤ 6 := by
  decide +kernel

/-- V-ERR3 and V-ERR5: just outside each end, and the ends. -/
theorem witness_RangeErrorIsPrecise :
    (-1 / 100 : Rat) < 0 ∧ (60 : Rat) < 6001 / 100 ∧ (-1 / 1000 : Rat) < 0 ∧ (6 : Rat) < 6001 / 1000 ∧
    (0 : Rat) ≤ 60 ∧ (60 : Rat) ≤ 60 ∧ (0 : Rat) ≤ 6 ∧ (6 : Rat) ≤ 6 ∧
    resultOf (.sendSetVoltage (.rational 60)) connectedState = some .done ∧
    resultOf (.sendSetCurrent (.rational 6)) connectedState = some .done ∧
    resultOf (.sendSetOutput true) connectedState = some .done ∧
    resultOf .sendReadValues connectedState = some .done := by
  decide +kernel

theorem witness_SetInRangeWithoutConnectionIsNoOp :
    ¬(State.reset.conn = .connected ∧ State.reset.live = true) ∧ (0 : Rat) ≤ 5 ∧ (5 : Rat) ≤ 60 ∧ (5 : Rat) ≤ 6 := by
  decide +kernel

theorem witness_PollTickPollsWhileScheduled : busyState.pollSched = some 2 ∧ connectedState.pollSched = none := by
  decide +kernel

theorem witness_ConfirmTickFiresOnce :
    0 < busyState.confirmPending.threeTenths ∧ busyState.confirmPending.half = 0 ∧
    0 < { busyState with confirmPending := { half := 1, threeTenths := 0 } }.confirmPending.half ∧
    connectedState.confirmPending.threeTenths = 0 := by
  decide

/-- An operation, a frame of a row, a frame of none, and nothing. -/
theorem witness_StepRunsOfferedOperation :
    { connectedState with inputs := [.op .tLive] }.inputs = .op .tLive :: [] ∧
    { connectedState with inputs := [.frame pollFrame] }.inputs = .frame pollFrame :: [] ∧
    decodeFrame pollFrame = .ok .readValues ∧ decodeFrame [] = .error .badLength ∧ connectedState.inputs = [] := by
  decide +kernel

/-- A sound state in which a step runs an external operation. -/
theorem witness_StepKeepsSound :
    sound { busyState with inputs := [.op (.rxChunk frameRA), .op .pollTick] } = true ∧
    (stateOf (step { busyState with inputs := [.op (.rxChunk frameRA), .op .pollTick] })).isSome = true := by
  decide +kernel

theorem witness_StepSendsWholeCommandFrames :
    { connectedState with inputs := [.op .sendReadValues] }.inputs.all (·.isExternal) = true ∧
    WholeFrames connectedState.tx ∧
    (stateOf (step { connectedState with inputs := [.op .sendReadValues] })).map (·.tx) = some pollFrame :=
  ⟨by decide, .nil, by decide +kernel⟩

theorem witness_RegistersHaveNamedWriters :
    (stateOf (exec (.sendSetOutput true) connectedState)).map (·.dev.outputState) = some true := by
  decide +kernel

theorem witness_ConnectionStateMachine :
    (stateOf (exec (.connect "B" .ok) busyState)).map (·.conn) = some .connected ∧
    (stateOf (exec (.connect "B" (.err "m")) busyState)).map (·.conn) = some .disconnected ∧
    (stateOf (exec .disconnect busyState)).map (·.conn) = some .disconnected ∧
    (stateOf (exec .linkLoss busyState)).map (·.conn) = some .connected := by
  decide +kernel

theorem witness_ErrorsComeFromNamedOperations :
    resultOf (.connect "B" (.err "m")) busyState = some (.raised (.connectionError "m")) ∧
    resultOf (.sendSetCurrent (.rational 7)) busyState = some (.raised .rangeError) := by
  decide +kernel

theorem witness_WellFormedOperationsComplete :
    (Instr.crcCheck frameRA).wellFormed = true ∧ (Instr.startPolling none).wellFormed = true ∧
    connectedState.params.rxBufCap = none := by
  decide +kernel

end Sys2Proof.Machine
end

section
/-! The Session's operations as equations and inversions: what each can do to the state, as one record update with
its guard. -/

namespace Sys2Proof.Machine

theorem execConnect_ok (port : String) (s : State) : execConnect port .ok s =
    .next { s with
      live := true
      conn := .connected
      buf := []
      port := some port
      dev := if s.params.resetDevStateOnConnect then DeviceState.zero else s.dev
      result := .done } := rfl

theorem execConnect_err (port msg : String) (s : State) : execConnect port (.err msg) s =
    .next { s with
      live := false
      conn := .disconnected
      result := .raised (.connectionError msg) } := rfl

theorem execDisconnect_eq (s : State) : execDisconnect s =
    .next { s with
      live := false
      pollSched := none
      confirmPending := if s.params.confirmCancelOnDisconnect then Confirms.empty else s.confirmPending
      conn := .disconnected
      result := .done } := rfl

theorem execSendReadValues_eq (s : State) : execSendReadValues s =
    .next { s with tx := if isConnected s then s.tx ++ encodeReadValues else s.tx, result := .done } := by
  rw [execSendReadValues, poll_eq]
  rfl

theorem execPollTick_eq (s : State) : execPollTick s =
    .next { s with
      tx := if pollEnabled s ∧ isConnected s then s.tx ++ encodeReadValues else s.tx
      result := .done } := by
  cases h : pollEnabled s <;> simp [execPollTick, h, poll_eq, complete_eq]

theorem execConfirmTick_eq (d : Delay) (s : State) : execConfirmTick d s =
    .next { s with
      confirmPending := if confirmEnabled d s then confirmRemove d s.confirmPending else s.confirmPending
      tx := if confirmEnabled d s ∧ isConnected s then s.tx ++ encodeReadValues else s.tx
      result := .done } := by
  cases h : confirmEnabled d s <;>
    simp [execConfirmTick, h, poll_eq, complete_eq, unscheduleConfirm, isConnected]

/-- `start_polling` completes exactly on an interval of its domain (R198). -/
theorem execStartPolling_cases {interval : Option Quantity} {s t : State}
    (h : execStartPolling interval s = .next t) :
    ∃ q, pollInterval interval = some q ∧
      t = { s with
            pollSched := some q
            tx := if isConnected s then s.tx ++ encodeReadValues else s.tx
            result := .done } := by
  simp only [execStartPolling, poll_eq] at h
  split at h
  · next q hq => cases h; exact ⟨q, hq, rfl⟩
  · cases h

/-- What the three Set commands do past their range check (R202, R204, R206): the frame `f`, the requested value
recorded in `dev`, a confirmation poll after `d`; nothing without a connection. -/
def guardedSend (f : List Byte) (d : Delay) (dev : DeviceState) (s : State) : Host.Outcome State Fault Refusal :=
  if isConnected s then complete .done (scheduleConfirm d { writeLine f s with dev := dev })
  else complete .done s

theorem guardedSend_cases {f : List Byte} {d : Delay} {dev : DeviceState} {s t : State}
    (h : guardedSend f d dev s = .next t) :
    (isConnected s = false ∧ t = { s with result := .done }) ∨
    (isConnected s = true ∧
      t = { s with
            tx := s.tx ++ f
            dev := dev
            confirmPending := confirmAdd d s.confirmPending
            result := .done }) := by
  rw [guardedSend] at h
  split at h
  · next hc =>
    rw [writeLine_of_live ((isConnected_iff s).mp hc).2] at h
    cases h
    exact .inr ⟨hc, rfl⟩
  · next hc => cases h; exact .inl ⟨Bool.eq_false_of_not_eq_true hc, rfl⟩

theorem execSendSetOutput_eq (b : Bool) (s : State) :
    execSendSetOutput b s = guardedSend (encodeSetOutput b) .half { s.dev with outputState := b } s := rfl

theorem execSendSetVoltage_cases {v : Quantity} {s t : State} (h : execSendSetVoltage v s = .next t) :
    (inRange Config.vMin Config.vMax v = none ∧ t = { s with result := .raised .rangeError }) ∨
    ∃ q, inRange Config.vMin Config.vMax v = some q ∧
      guardedSend (encodeSetVoltage s.params.roundTie q) .threeTenths { s.dev with setVoltage := q } s = .next t := by
  rw [execSendSetVoltage] at h
  split at h
  · next hv => cases h; exact .inl ⟨hv, rfl⟩
  · next q hv => exact .inr ⟨q, hv, h⟩

theorem execSendSetCurrent_cases {a : Quantity} {s t : State} (h : execSendSetCurrent a s = .next t) :
    (inRange Config.iMin Config.iMax a = none ∧ t = { s with result := .raised .rangeError }) ∨
    ∃ q, inRange Config.iMin Config.iMax a = some q ∧
      guardedSend (encodeSetCurrent s.params.roundTie q) .threeTenths { s.dev with setCurrent := q } s = .next t := by
  rw [execSendSetCurrent] at h
  split at h
  · next ha => cases h; exact .inl ⟨ha, rfl⟩
  · next q ha => exact .inr ⟨q, ha, h⟩

end Sys2Proof.Machine
end

section
/-! The invariant of the machine: which updates keep `sound`, then every external operation, then the step. -/

namespace Sys2Proof.Machine

theorem pollInterval_pos {interval : Option Quantity} {q : Rat} (h : pollInterval interval = some q) : 0 < q := by
  obtain ⟨-, rfl⟩ | ⟨-, hq⟩ := pollInterval_eq_some.mp h
  · norm_num
  · exact hq

theorem inRange_rational_of_eq_some {lo hi : Rat} {v : Quantity} {q : Rat} (h : inRange lo hi v = some q) :
    inRange lo hi (.rational q) = some q := by
  obtain ⟨rfl, -⟩ := inRange_eq_some.mp h
  exact h

theorem deviceInDomain_setVoltage {d : DeviceState} {v : Quantity} {q : Rat} (hd : deviceInDomain d = true)
    (hv : inRange Config.vMin Config.vMax v = some q) : deviceInDomain { d with setVoltage := q } = true := by
  simp only [deviceInDomain, Bool.and_eq_true] at hd ⊢
  obtain ⟨⟨hmeas, -⟩, hcur⟩ := hd
  exact ⟨⟨hmeas, by rw [inRange_rational_of_eq_some hv]; rfl⟩, hcur⟩

theorem deviceInDomain_setCurrent {d : DeviceState} {a : Quantity} {q : Rat} (hd : deviceInDomain d = true)
    (ha : inRange Config.iMin Config.iMax a = some q) : deviceInDomain { d with setCurrent := q } = true := by
  simp only [deviceInDomain, Bool.and_eq_true] at hd ⊢
  obtain ⟨hrest, -⟩ := hd
  exact ⟨hrest, by rw [inRange_rational_of_eq_some ha]; rfl⟩

theorem sound_setDev {s : State} {d : DeviceState} (hs : sound s = true) (hd : deviceInDomain d = true) :
    sound { s with dev := d } = true := by
  obtain ⟨hconn, hlive, hwf, hrest, -, hpoll, hin⟩ := (sound_iff s).mp hs
  exact (sound_iff _).mpr ⟨hconn, hlive, hwf, hrest, hd, hpoll, hin⟩

theorem sound_setBuf {s : State} {b : List Byte} (hs : sound s = true)
    (hwf : Memory.wf s.params.rxBufCap b = true) (hrest : restingBuf b = true) :
    sound { s with buf := b } = true := by
  obtain ⟨hconn, hlive, -, -, hdev, hpoll, hin⟩ := (sound_iff s).mp hs
  exact (sound_iff _).mpr ⟨hconn, hlive, hwf, hrest, hdev, hpoll, hin⟩

theorem sound_setPollSched {s : State} {sched : Option Rat} (hs : sound s = true)
    (hpoll : ∀ q, sched = some q → 0 < q) : sound { s with pollSched := sched } = true := by
  obtain ⟨hconn, hlive, hwf, hrest, hdev, -, hin⟩ := (sound_iff s).mp hs
  exact (sound_iff _).mpr ⟨hconn, hlive, hwf, hrest, hdev, hpoll, hin⟩

/-- The line and the connection state may change together, as long as a live line means `Connected`. -/
theorem sound_setLink {s : State} {l : Bool} {c : Conn} (hs : sound s = true) (hc : c ≠ .connecting)
    (hl : l = true → c = .connected) : sound { s with live := l, conn := c } = true := by
  obtain ⟨-, -, hwf, hrest, hdev, hpoll, hin⟩ := (sound_iff s).mp hs
  exact (sound_iff _).mpr ⟨hc, hl, hwf, hrest, hdev, hpoll, hin⟩

theorem sound_tail {s : State} {x : Input} {rest : List Input} (hs : sound s = true) (hi : s.inputs = x :: rest) :
    x.isExternal = true ∧ sound { s with inputs := rest } = true := by
  obtain ⟨hconn, hlive, hwf, hrest, hdev, hpoll, hin⟩ := (sound_iff s).mp hs
  rw [hi, List.all_cons, Bool.and_eq_true] at hin
  exact ⟨hin.1, (sound_iff _).mpr ⟨hconn, hlive, hwf, hrest, hdev, hpoll, hin.2⟩⟩

theorem Memory.wf_of_suffix {cap : Option Nat} {b buf : List Byte} (h : b <:+ buf)
    (hwf : Memory.wf cap buf = true) : Memory.wf cap b = true :=
  fitsCap_mono h.length_le hwf

theorem execRxChunk_keeps_sound {bytes : List Byte} {s t : State} (hs : sound s = true)
    (h : execRxChunk bytes s = .next t) : sound t = true := by
  obtain ⟨-, rfl⟩ | ⟨-, hcap, v, i, o, ns, b, rfl, hsuf, hrest, hdom⟩ := execRxChunk_cases h
  · exact hs
  · obtain ⟨-, -, -, -, hdev, -, -⟩ := (sound_iff s).mp hs
    have hwf := Memory.wf_of_suffix hsuf (Memory.wf_append hcap)
    exact sound_setDev (sound_setBuf hs hwf hrest) (hdom hdev)

theorem execConnect_keeps_sound {port : String} {outcome : OpenOutcome} {s t : State} (hs : sound s = true)
    (h : execConnect port outcome s = .next t) : sound t = true := by
  obtain ⟨-, -, -, -, hdev, -, -⟩ := (sound_iff s).mp hs
  cases outcome with
  | ok =>
    rw [execConnect_ok] at h
    cases h
    have hdev' : deviceInDomain (if s.params.resetDevStateOnConnect then DeviceState.zero else s.dev) = true := by
      split
      · exact deviceInDomain_zero
      · exact hdev
    have hlink := sound_setLink (l := true) (c := .connected) hs (by decide) fun _ => rfl
    exact sound_setDev (sound_setBuf hlink (Memory.wf_nil _) rfl) hdev'
  | err msg =>
    rw [execConnect_err] at h
    cases h
    exact sound_setLink (l := false) (c := .disconnected) hs (by decide) (by decide)

theorem guardedSend_keeps_sound {f : List Byte} {d : Delay} {dev : DeviceState} {s t : State} (hs : sound s = true)
    (h : guardedSend f d dev s = .next t) (hdev : deviceInDomain dev = true) : sound t = true := by
  obtain ⟨-, rfl⟩ | ⟨-, rfl⟩ := guardedSend_cases h
  · exact hs
  · exact sound_setDev hs hdev

/-- Every operation the environment can offer keeps the sound states. The cases closed by `hs` write only fields that
`sound` does not read. -/
theorem exec_keeps_sound {i : Instr} {s t : State} (hx : i.isExternal = true) (hs : sound s = true)
    (h : exec i s = .next t) : sound t = true := by
  obtain ⟨hconn, -, -, -, hdev, -, -⟩ := (sound_iff s).mp hs
  cases i with
  | rxChunk bytes => exact execRxChunk_keeps_sound hs h
  | tLive => cases h; exact hs
  | linkLoss => cases h; exact sound_setLink (s := s) (l := false) hs hconn (by simp)
  | connect port outcome => exact execConnect_keeps_sound hs h
  | disconnect =>
    cases (execDisconnect_eq s).symm.trans h
    have hlink := sound_setLink (l := false) (c := .disconnected) hs (by decide) (by decide)
    exact sound_setPollSched (sched := none) hlink (by simp)
  | startPolling interval =>
    obtain ⟨q, hq, rfl⟩ := execStartPolling_cases h
    exact sound_setPollSched hs fun _ hq' => Option.some.inj hq' ▸ pollInterval_pos hq
  | sendReadValues =>
    cases (execSendReadValues_eq s).symm.trans h
    exact hs
  | sendSetOutput b =>
    exact guardedSend_keeps_sound hs ((execSendSetOutput_eq b s).symm.trans h) hdev
  | sendSetVoltage v =>
    obtain ⟨-, rfl⟩ | ⟨q, hq, h⟩ := execSendSetVoltage_cases h
    · exact hs
    · exact guardedSend_keeps_sound hs h (deviceInDomain_setVoltage hdev hq)
  | sendSetCurrent a =>
    obtain ⟨-, rfl⟩ | ⟨q, hq, h⟩ := execSendSetCurrent_cases h
    · exact hs
    · exact guardedSend_keeps_sound hs h (deviceInDomain_setCurrent hdev hq)
  | pollTick =>
    cases (execPollTick_eq s).symm.trans h
    exact hs
  | confirmTick d =>
    cases (execConfirmTick_eq d s).symm.trans h
    exact hs
  | subscribe handle => cases h; exact hs
  | readValues | setOutput | setVoltage | setCurrent | statusResponse => cases hx
  | crcSeed | crcBit | crcByte | crc16Modbus | crcEmit | crcCheck => cases hx
  | rxReset | tOpen | tClose | tWrite | onResponse | notify => cases hx

/-- Settles O55: the input taken off the queue is an external operation, and those keep the sound states. -/
theorem stepKeepsSound : Obligations.StepKeepsSound := by
  intro s t hs h
  cases hin : s.inputs with
  | nil =>
    cases (step_idle hin).symm.trans h
    exact hs
  | cons x rest =>
    obtain ⟨hx, hs'⟩ := sound_tail hs hin
    cases x with
    | op i => exact exec_keeps_sound hx hs' ((step_op hin).symm.trans h)
    | frame bytes => cases hx

/-- Settles O54. -/
theorem resetStateIsSound : Obligations.ResetStateIsSound :=
  ⟨(sound_iff _).mpr ⟨by decide, by decide, Memory.wf_reset, rfl, deviceInDomain_zero, by simp [State.reset], rfl⟩, .nil⟩

/-- Settles O53. -/
theorem powerOnResetState : Obligations.PowerOnResetState :=
  ⟨rfl, rfl, rfl, rfl, rfl, rfl, rfl, rfl, rfl, rfl, rfl⟩

/-- Settles O26: the answer exists by `execRxChunk_of_live`; what it may be is `execRxChunk_cases`. -/
theorem rxChunkEndsRestingAndFrames : Obligations.RxChunkEndsRestingAndFrames := by
  intro bytes s hlive hcap
  have hx := execRxChunk_of_live hlive hcap
  obtain ⟨hdead, -⟩ | ⟨-, -, v, i, o, ns, b, ht, hsuf, hrest, -⟩ := execRxChunk_cases hx
  · rw [hlive] at hdead
    cases hdead
  · rw [ht] at hx
    refine ⟨_, (s.buf ++ bytes).length - b.length, ns, hx, (restingBuf_iff b).mp hrest, fun j => ?_, rfl, rfl⟩
    rw [← List.getElem?_drop, ← List.suffix_iff_eq_drop.mp hsuf]
    rfl

end Sys2Proof.Machine
end

section
/-! Who writes which register (R10, R11, R244). -/

namespace Sys2Proof.Machine

/-- The write permissions of R10, one field per register: it is as before, or the operation is one of its writers. A
proof for one operation names the registers it writes; the others are unchanged by definition. -/
structure NamedWriters (i : Instr) (s t : State) : Prop where
  crc : t.crc = s.crc ∨ i = .crcSeed ∨ i = .crcBit ∨ (∃ b, i = .crcByte b) ∨ (∃ bs, i = .crc16Modbus bs) := by
    exact .inl rfl
  buf : t.buf = s.buf ∨ (∃ bs, i = .rxChunk bs) ∨ i = .rxReset ∨ (∃ p, i = .connect p .ok) := by
    exact .inl rfl
  live : t.live = s.live ∨ (∃ p o, i = .tOpen p o) ∨ i = .tClose ∨ i = .linkLoss ∨ (∃ p o, i = .connect p o) ∨
      i = .disconnect := by
    exact .inl rfl
  conn : t.conn = s.conn ∨ (∃ p o, i = .connect p o) ∨ i = .disconnect := by
    exact .inl rfl
  port : t.port = s.port ∨ (∃ p, i = .connect p .ok ∧ t.port = some p) := by
    exact .inl rfl
  measured : (t.dev.voltage = s.dev.voltage ∧ t.dev.current = s.dev.current) ∨ (∃ bs, i = .rxChunk bs) ∨
      (∃ r, i = .onResponse r) ∨ (∃ p, i = .connect p .ok) := by
    exact .inl ⟨rfl, rfl⟩
  outputState : t.dev.outputState = s.dev.outputState ∨ (∃ b, i = .sendSetOutput b) ∨ (∃ bs, i = .rxChunk bs) ∨
      (∃ r, i = .onResponse r) ∨ (∃ p, i = .connect p .ok) := by
    exact .inl rfl
  setVoltage : t.dev.setVoltage = s.dev.setVoltage ∨ (∃ v, i = .sendSetVoltage v) ∨ (∃ p, i = .connect p .ok) := by
    exact .inl rfl
  setCurrent : t.dev.setCurrent = s.dev.setCurrent ∨ (∃ a, i = .sendSetCurrent a) ∨ (∃ p, i = .connect p .ok) := by
    exact .inl rfl
  pollSched : t.pollSched = s.pollSched ∨ (∃ q, i = .startPolling q) ∨ i = .disconnect := by
    exact .inl rfl
  confirmPending : t.confirmPending = s.confirmPending ∨ (∃ b, i = .sendSetOutput b) ∨
      (∃ v, i = .sendSetVoltage v) ∨ (∃ a, i = .sendSetCurrent a) ∨ (∃ d, i = .confirmTick d) ∨ i = .disconnect := by
    exact .inl rfl
  subs : t.subs = s.subs ∨ (∃ h, i = .subscribe h) := by
    exact .inl rfl
  notifications : t.notifications = s.notifications ∨ (∃ bs, i = .rxChunk bs) ∨ (∃ r, i = .onResponse r) ∨
      (∃ v a o, i = .notify v a o) := by
    exact .inl rfl
  tx : t.tx = s.tx ∨ (∃ bs, i = .tWrite bs) ∨ (∃ q, i = .startPolling q) ∨ i = .sendReadValues ∨
      (∃ b, i = .sendSetOutput b) ∨ (∃ v, i = .sendSetVoltage v) ∨ (∃ a, i = .sendSetCurrent a) ∨ i = .pollTick ∨
      (∃ d, i = .confirmTick d) := by
    exact .inl rfl
  debugTrace : t.debugTrace = s.debugTrace := by exact rfl
  params : t.params = s.params := by exact rfl
  inputs : t.inputs = s.inputs := by exact rfl

theorem namedWriters_setResult (i : Instr) (s : State) (r : Result) : NamedWriters i s { s with result := r } := {}

theorem exec_namedWriters {i : Instr} {s t : State} (h : exec i s = .next t) : NamedWriters i s t := by
  cases i with
  | readValues | setOutput | setVoltage | setCurrent | statusResponse | crcEmit | crcCheck | tLive =>
    cases h
    exact namedWriters_setResult _ s _
  | crcSeed | crcBit | crcByte | crc16Modbus =>
    cases h
    exact { crc := by simp }
  | rxChunk bytes =>
    obtain ⟨-, rfl⟩ | ⟨-, -, v, i, o, ns, b, rfl, -⟩ := execRxChunk_cases h
    · exact namedWriters_setResult _ s _
    · exact { buf := by simp, measured := by simp, outputState := by simp, notifications := by simp }
  | rxReset => cases h; exact { buf := by simp }
  | tOpen port outcome => cases outcome <;> cases h <;> exact { live := by simp }
  | tClose | linkLoss => cases h; exact { live := by simp }
  | tWrite bytes => cases h; exact { tx := by simp }
  | connect port outcome =>
    cases outcome with
    | ok =>
      cases (execConnect_ok port s).symm.trans h
      exact { buf := by simp, live := by simp, conn := by simp, port := .inr ⟨port, rfl, rfl⟩, measured := by simp,
              outputState := by simp, setVoltage := by simp, setCurrent := by simp }
    | err msg => cases (execConnect_err port msg s).symm.trans h; exact { live := by simp, conn := by simp }
  | disconnect =>
    cases (execDisconnect_eq s).symm.trans h
    exact { live := by simp, conn := by simp, pollSched := by simp, confirmPending := by simp }
  | startPolling interval =>
    obtain ⟨q, -, rfl⟩ := execStartPolling_cases h
    exact { pollSched := by simp, tx := by simp }
  | sendReadValues => cases (execSendReadValues_eq s).symm.trans h; exact { tx := by simp }
  | sendSetOutput b =>
    obtain ⟨-, rfl⟩ | ⟨-, rfl⟩ := guardedSend_cases ((execSendSetOutput_eq b s).symm.trans h)
    · exact namedWriters_setResult _ s _
    · exact { outputState := by simp, confirmPending := by simp, tx := by simp }
  | sendSetVoltage v =>
    obtain ⟨-, rfl⟩ | ⟨q, -, h⟩ := execSendSetVoltage_cases h
    · exact namedWriters_setResult _ s _
    · obtain ⟨-, rfl⟩ | ⟨-, rfl⟩ := guardedSend_cases h
      · exact namedWriters_setResult _ s _
      · exact { setVoltage := by simp, confirmPending := by simp, tx := by simp }
  | sendSetCurrent a =>
    obtain ⟨-, rfl⟩ | ⟨q, -, h⟩ := execSendSetCurrent_cases h
    · exact namedWriters_setResult _ s _
    · obtain ⟨-, rfl⟩ | ⟨-, rfl⟩ := guardedSend_cases h
      · exact namedWriters_setResult _ s _
      · exact { setCurrent := by simp, confirmPending := by simp, tx := by simp }
  | pollTick => cases (execPollTick_eq s).symm.trans h; exact { tx := by simp }
  | confirmTick d =>
    cases (execConfirmTick_eq d s).symm.trans h
    exact { confirmPending := by simp, tx := by simp }
  | onResponse r =>
    cases h
    exact { measured := by simp, outputState := by simp, notifications := by simp }
  | subscribe handle => cases h; exact { subs := by simp }
  | notify v a o => cases h; exact { notifications := by simp }

/-- Settles O57, register by register from `exec_namedWriters`. -/
theorem registersHaveNamedWriters : Obligations.RegistersHaveNamedWriters := by
  intro i s t h
  have w := exec_namedWriters h
  exact ⟨w.crc, w.buf, w.live, w.conn, w.port, w.measured, w.outputState, w.setVoltage, w.setCurrent, w.pollSched,
    w.confirmPending, w.subs, w.notifications, w.tx, w.debugTrace, w.params, w.inputs⟩

end Sys2Proof.Machine
end

section
/-! The CRC of a message with its own CRC behind it (R108), and the answer of `crc_check` (R110). -/

namespace Sys2Proof.Machine

theorem crcBitStep_of_even {c : Word} (h : c.getLsbD 0 = false) : crcBitStep c = c >>> 1 := by
  rw [crcBitStep, h, if_neg Bool.false_ne_true]

/-- Along a run of zero bits `crc_bit` only shifts. -/
theorem crcBitStep_ushiftRight {c : Word} {k : Nat} (h : c.getLsbD k = false) :
    crcBitStep (c >>> k) = c >>> (k + 1) := by
  rw [crcBitStep_of_even (by simpa using h), BitVec.shiftRight_add]

/-- The XOR with its own low byte clears the low byte of the register. -/
theorem getLsbD_xor_zext16_lo8 (c : Word) {k : Nat} (hk : k < 8) : (c ^^^ zext16 (lo8 c)).getLsbD k = false := by
  simp [zext16, lo8, hk, show k < 16 by omega]

/-- What is left of the register after that XOR and eight shifts is its high byte. -/
theorem xor_zext16_lo8_ushiftRight (c : Word) : (c ^^^ zext16 (lo8 c)) >>> 8 = zext16 (hi8 c) := by
  apply BitVec.eq_of_getLsbD_eq
  intro i hi
  by_cases h8 : i < 8
  · simp [zext16, lo8, hi8, h8, hi]
  · have hout : c.getLsbD (8 + i) = false := BitVec.getLsbD_of_ge c (8 + i) (by omega)
    simp [zext16, lo8, hi8, h8, hout]

/-- The register takes its own low byte: eight shifts and no XOR with the polynomial. -/
theorem crcByteStep_lo8 (c : Word) : crcByteStep c (lo8 c) = zext16 (hi8 c) := by
  have hstep {k : Nat} (hk : k < 8) := crcBitStep_ushiftRight (getLsbD_xor_zext16_lo8 c hk)
  have hfirst := hstep (k := 0) (by decide)
  rw [BitVec.ushiftRight_zero] at hfirst
  simp (disch := decide) only [crcByteStep, hfirst, hstep, Nat.reduceAdd, xor_zext16_lo8_ushiftRight]

/-- A register that equals the next byte becomes zero. -/
theorem crcByteStep_zext16 (b : Byte) : crcByteStep (zext16 b) b = 0 := by
  calc crcByteStep (zext16 b) b = crcByteStep 0 0 := by simp [crcByteStep, zext16]
    _ = 0 := crcByteStep_zero

/-- The two emitted bytes bring any register value to zero. -/
theorem crcUpdate_crcEmitBytes (c : Word) : crcUpdate c (crcEmitBytes c) = 0 := by
  rw [crcEmitBytes, crcUpdate_cons, crcUpdate_cons, crcUpdate_nil, crcByteStep_lo8, crcByteStep_zext16]

/-- The residue of R108. -/
theorem crc16_append_crcEmitBytes (m : List Byte) : crc16 (m ++ crcEmitBytes (crc16 m)) = 0 := by
  rw [crc16_append, crcUpdate_crcEmitBytes]

theorem exec_crc16Modbus (bytes : List Byte) (s : State) :
    exec (.crc16Modbus bytes) s = .next { s with crc := crc16 bytes, result := .word (crc16 bytes) } := rfl

/-- Settles O22. -/
theorem crcResidueIsZero : Obligations.CrcResidueIsZero := by
  intro m s
  rw [exec_crc16Modbus, crc16_append_crcEmitBytes]

theorem exec_crcCheck (cand : List Byte) (s : State) :
    exec (.crcCheck cand) s = .next { s with result := .flag (crcCheckAnswer cand) } := rfl

theorem crcCheckOk_eq (cand : List Byte) : crcCheckOk cand =
    (byteAt cand 11 == lo8 (crc16 (slice cand 0 10)) && byteAt cand 12 == hi8 (crc16 (slice cand 0 10))) := by
  simp [crcCheckOk, crcEmitBytes]

/-- Settles O24: `crcCheckOk_eq` from 14 bytes on; below, whatever `crcCheckAnswer` is. -/
theorem crcCheckComparesTrailer : Obligations.CrcCheckComparesTrailer := by
  constructor
  · intro s b0 b1 b2 b3 b4 b5 b6 b7 b8 b9 b10 b11 b12 b13 rest
    rw [exec_crcCheck, crcCheckAnswer_of_le (by simp), crcCheckOk_eq]
    rfl
  · intro s cand _
    exact ⟨crcCheckAnswer cand, exec_crcCheck cand s⟩

end Sys2Proof.Machine
end

section
/-! The stream cut into chunks (R161): the scan of a buffer with more bytes behind it, and two `rx_chunk` in a row. -/

namespace Sys2Proof.Machine

theorem slice_append_left {b : List Byte} (y : List Byte) {a e : Nat} (h : e < b.length) :
    slice (b ++ y) a e = slice b a e := by
  rw [slice, slice, List.take_append_of_le_length h]

theorem exists_first_of_not_resting {b : List Byte} (h : ¬ restingBuf b = true) :
    ∃ a e, first b Config.addr = some a ∧ first b Config.term = some e := by
  simp only [restingBuf, Bool.or_eq_true, Option.isNone_iff_eq_none, not_or] at h
  obtain ⟨ha, he⟩ := h
  obtain ⟨a, ha⟩ := Option.ne_none_iff_exists'.mp ha
  obtain ⟨e, he⟩ := Option.ne_none_iff_exists'.mp he
  exact ⟨a, e, ha, he⟩

/-- Bytes that arrive later change no extraction made before: the scan of `b ++ y` finds what the scan of `b` finds,
then goes on with what that left and `y`. -/
theorem scan_append (verify : Bool) {n : Nat} (b y : List Byte) (hn : (b ++ y).length ≤ n) :
    scan verify n (b ++ y) =
      ((scan verify n b).1 ++ (scan verify n ((scan verify n b).2 ++ y)).1,
        (scan verify n ((scan verify n b).2 ++ y)).2) := by
  by_cases hrest : restingBuf b = true
  · rw [scan_of_resting verify n hrest, List.nil_append]
  · obtain ⟨a, e, ha, he⟩ := exists_first_of_not_resting hrest
    have hlt := first_lt_length he
    have hb : b.length ≤ n := by rw [List.length_append] at hn; omega
    have ih := scan_append verify (n := n) (b.drop (e + 1)) y (by
      rw [List.length_append] at hn ⊢
      rw [List.length_drop]
      omega)
    rw [scan_extract verify hn (first_append_left y ha) (first_append_left y he), scan_extract verify hb ha he,
      slice_append_left y hlt, List.drop_append_of_le_length hlt, ih, List.append_assoc]
termination_by b.length
decreasing_by simp; omega

/-- The state `rx_chunk` answers from what the scan found: the responses applied in order, the rest in the buffer. -/
def afterScan (found : List Response × List Byte) (s : State) : State :=
  { applyAll found.1 s with buf := found.2, result := .done }

@[simp] theorem afterScan_buf (found : List Response × List Byte) (s : State) : (afterScan found s).buf = found.2 := rfl

@[simp] theorem afterScan_live (found : List Response × List Byte) (s : State) :
    (afterScan found s).live = s.live := by
  obtain ⟨v, i, o, ns, h⟩ := applyAll_frame found.1 s
  rw [afterScan, h]

@[simp] theorem afterScan_params (found : List Response × List Byte) (s : State) :
    (afterScan found s).params = s.params := by
  obtain ⟨v, i, o, ns, h⟩ := applyAll_frame found.1 s
  rw [afterScan, h]

/-- Of two scans the responses add up in order, and the last rest stands. -/
theorem afterScan_afterScan (found found' : List Response × List Byte) (s : State) :
    afterScan found' (afterScan found s) = afterScan (found.1 ++ found'.1, found'.2) s := by
  rw [afterScan, afterScan, afterScan, applyAll_append,
    applyAll_setResult found'.1 { applyAll found.1 s with buf := found.2 }, applyAll_setBuf]

/-- What `rx_chunk` answers while live and within the capacity, told with any fuel that is enough. -/
theorem execRxChunk_eq_afterScan {s : State} {bytes : List Byte} (n : Nat) (hl : s.live = true)
    (hc : fitsCap s.params.rxBufCap (s.buf.length + bytes.length) = true) (hn : s.buf.length + bytes.length ≤ n) :
    execRxChunk bytes s = .next (afterScan (scan s.params.verifyRxCrc n (s.buf ++ bytes)) s) := by
  rw [execRxChunk_of_live hl hc, scan_fuel s.params.verifyRxCrc (n := n) (by simp) (by simpa using hn)]
  rfl

/-- Two chunks on a live line: the second `rx_chunk` scans what the first left and its own bytes (`scan_append`), and
its responses are applied after the first one's. -/
theorem execRxChunk_append_of_live {x y : List Byte} {s : State} (hl : s.live = true)
    (hc : fitsCap s.params.rxBufCap (s.buf.length + (x ++ y).length) = true) :
    ∃ t, execRxChunk x s = .next t ∧ execRxChunk y t = execRxChunk (x ++ y) s := by
  obtain ⟨n, hn⟩ : ∃ n, n = s.buf.length + (x ++ y).length := ⟨_, rfl⟩
  have hlen : n = s.buf.length + (x.length + y.length) := by rw [hn, List.length_append]
  rw [← hn] at hc
  have hleft : (scan s.params.verifyRxCrc n (s.buf ++ x)).2.length + y.length ≤ n := by
    have hsuf := (scan_suffix s.params.verifyRxCrc n (s.buf ++ x)).length_le
    rw [List.length_append] at hsuf
    omega
  have hx := execRxChunk_eq_afterScan (bytes := x) n hl (fitsCap_mono (by omega) hc) (by omega)
  have hy := execRxChunk_eq_afterScan (s := afterScan (scan s.params.verifyRxCrc n (s.buf ++ x)) s) (bytes := y) n
    (by simpa using hl) (by simpa using fitsCap_mono hleft hc) hleft
  have hxy := execRxChunk_eq_afterScan (bytes := x ++ y) n hl (hn ▸ hc) hn.ge
  refine ⟨_, hx, ?_⟩
  rw [hy, hxy, afterScan_afterScan, afterScan_params, afterScan_buf, ← List.append_assoc,
    scan_append s.params.verifyRxCrc (s.buf ++ x) y (by simp; omega)]

/-- Bytes that arrive while the line is not live are lost (R176). -/
theorem execRxChunk_of_not_live {s : State} (hl : s.live = false) (bytes : List Byte) :
    execRxChunk bytes s = .next { s with result := .done } :=
  exec_of_not_enabled (i := .rxChunk bytes) rfl hl

/-- Settles O31. -/
theorem rxChunkBoundariesDoNotMatter : Obligations.RxChunkBoundariesDoNotMatter := by
  intro x y s hcap
  by_cases hl : s.live = true
  · exact execRxChunk_append_of_live hl (hcap hl)
  · have hoff := Bool.eq_false_of_not_eq_true hl
    have hy := execRxChunk_of_not_live (s := { s with result := .done }) hoff y
    exact ⟨_, execRxChunk_of_not_live hoff x, hy.trans (execRxChunk_of_not_live hoff (x ++ y)).symm⟩

end Sys2Proof.Machine
end

section
/-! What the block puts on the line (R54, R180): at most one whole command frame per operation, and only while
connected. -/

namespace Sys2Proof.Machine

/-- The line is as before, or one command frame longer, the Session being connected. -/
def SendsAtMostOneFrame (s t : State) : Prop :=
  t.tx = s.tx ∨ isConnected s = true ∧ ∃ f, isCommandFrame f = true ∧ t.tx = s.tx ++ f

/-- Everything that polls: `poll`, under whatever further condition the operation sets. -/
theorem sendsAtMostOneFrame_of_poll {s t : State} {c : Prop} [Decidable c]
    (ht : t.tx = if c then s.tx ++ encodeReadValues else s.tx) (hc : c → isConnected s = true) :
    SendsAtMostOneFrame s t := by
  split at ht
  · next h => exact .inr ⟨hc h, encodeReadValues, isCommandFrame_readValues, ht⟩
  · exact .inl ht

theorem guardedSend_sendsAtMostOneFrame {f : List Byte} {d : Delay} {dev : DeviceState} {s t : State}
    (hf : isCommandFrame f = true) (h : guardedSend f d dev s = .next t) : SendsAtMostOneFrame s t := by
  obtain ⟨-, rfl⟩ | ⟨hc, rfl⟩ := guardedSend_cases h
  · exact .inl rfl
  · exact .inr ⟨hc, f, hf, rfl⟩

/-- Of the writers of `tx` that R10 names, `t_write` alone is internal; the others send by a poll or a guarded send. -/
theorem exec_sendsAtMostOneFrame {i : Instr} {s t : State} (hx : i.isExternal = true) (h : exec i s = .next t) :
    SendsAtMostOneFrame s t := by
  obtain hsame | ⟨bytes, rfl⟩ | ⟨interval, rfl⟩ | rfl | ⟨b, rfl⟩ | ⟨v, rfl⟩ | ⟨a, rfl⟩ | rfl | ⟨d, rfl⟩ :=
    (exec_namedWriters h).tx
  · exact .inl hsame
  · -- `tWrite`
    cases hx
  · -- `startPolling`
    obtain ⟨q, -, rfl⟩ := execStartPolling_cases h
    exact sendsAtMostOneFrame_of_poll rfl id
  · -- `sendReadValues`
    cases (execSendReadValues_eq s).symm.trans h
    exact sendsAtMostOneFrame_of_poll rfl id
  · -- `sendSetOutput`
    exact guardedSend_sendsAtMostOneFrame (isCommandFrame_setOutput b) ((execSendSetOutput_eq b s).symm.trans h)
  · -- `sendSetVoltage`
    obtain ⟨-, rfl⟩ | ⟨q, -, h⟩ := execSendSetVoltage_cases h
    · exact .inl rfl
    · exact guardedSend_sendsAtMostOneFrame (isCommandFrame_setVoltage _) h
  · -- `sendSetCurrent`
    obtain ⟨-, rfl⟩ | ⟨q, -, h⟩ := execSendSetCurrent_cases h
    · exact .inl rfl
    · exact guardedSend_sendsAtMostOneFrame (isCommandFrame_setCurrent _) h
  · -- `pollTick`
    cases (execPollTick_eq s).symm.trans h
    exact sendsAtMostOneFrame_of_poll rfl And.right
  · -- `confirmTick`
    cases (execConfirmTick_eq d s).symm.trans h
    exact sendsAtMostOneFrame_of_poll rfl And.right

/-- A step takes an external operation off the queue, or nothing. -/
theorem step_sendsAtMostOneFrame {s t : State} (hx : s.inputs.all (·.isExternal) = true) (h : step s = .next t) :
    SendsAtMostOneFrame s t := by
  cases hin : s.inputs with
  | nil =>
    cases (step_idle hin).symm.trans h
    exact .inl rfl
  | cons x rest =>
    rw [hin, List.all_cons, Bool.and_eq_true] at hx
    obtain ⟨hx, -⟩ := hx
    cases x with
    | op i => exact exec_sendsAtMostOneFrame (s := { s with inputs := rest }) hx ((step_op hin).symm.trans h)
    | frame bytes => cases hx

/-- Settles O56. -/
theorem stepSendsWholeCommandFrames : Obligations.StepSendsWholeCommandFrames := by
  intro s t hx hw h
  obtain hsame | ⟨hconn, f, hf, htx⟩ := step_sendsAtMostOneFrame hx h
  · rw [hsame]
    exact ⟨hw, List.prefix_refl _, fun hne => absurd rfl hne⟩
  · rw [htx]
    exact ⟨hw.snoc hf, List.prefix_append _ _, fun _ => (isConnected_iff s).mp hconn⟩

end Sys2Proof.Machine
end

section
/-! The wire rows as shapes of byte sequences (R90): which sequences are instances of a row, that rows exclude each
other, and what the table decoder therefore reads or rejects. -/

namespace Sys2Proof

open Sys2Proof.Machine

/-! ### A mask and a pattern as a shape, byte by byte -/

/-- A byte sequence has the mask's length and, under the mask, the pattern's bytes: the instances of R90. -/
def Matches (mask pattern f : List Byte) : Prop :=
  f.length = mask.length ∧ List.zipWith (· &&& ·) f mask = pattern

theorem isInstance_iff_matches (r : TableRow) (f : List Byte) :
    r.isInstance f = true ↔ Matches r.mask r.pattern f := by
  simp [TableRow.isInstance, Matches]

theorem matches_nil (f : List Byte) : Matches [] [] f ↔ f = [] := by
  simp [Matches]

theorem matches_cons (m p : Byte) (mask pattern f : List Byte) :
    Matches (m :: mask) (p :: pattern) f ↔ ∃ b g, f = b :: g ∧ b &&& m = p ∧ Matches mask pattern g := by
  cases f with
  | nil => simp [Matches]
  | cons b g => simp [Matches]; tauto

/-- Under a full mask a byte is fixed. -/
theorem matches_cons_ff (p : Byte) (mask pattern f : List Byte) :
    Matches (0xFF :: mask) (p :: pattern) f ↔ ∃ g, f = p :: g ∧ Matches mask pattern g := by
  have hff (b : Byte) : b &&& 0xFF = b := BitVec.and_allOnes
  simp only [matches_cons, hff]
  constructor
  · rintro ⟨b, g, rfl, rfl, hg⟩
    exact ⟨g, rfl, hg⟩
  · rintro ⟨g, rfl, hg⟩
    exact ⟨p, g, rfl, rfl, hg⟩

/-- Under an empty mask a byte is free. -/
theorem matches_cons_zero (mask pattern f : List Byte) :
    Matches (0x00 :: mask) (0x00 :: pattern) f ↔ ∃ b g, f = b :: g ∧ Matches mask pattern g := by
  simp [matches_cons]

/-- Existential quantifiers over bytes are drawn outwards, so that the list they build is written out in one piece. -/
theorem exists_and_exists_iff {α β : Type} {p : α → Prop} {q : α → β → Prop} :
    (∃ a, p a ∧ ∃ b, q a b) ↔ ∃ b a, p a ∧ q a b := by
  simp only [← exists_and_left]
  exact exists_comm

/-! ### The five rows -/

/-- The row of `ReadValues`: no bit is free. -/
def readValuesRow : TableRow :=
  { row := .readValues
    pattern := [0xF7, 0x01, 0x03, 0x04, 0x03, 0x62, 0xE8, 0xFD]
    mask := [0xFF, 0xFF, 0xFF, 0xFF, 0xFF, 0xFF, 0xFF, 0xFF] }

/-- The row of `SetOutput`: one bit of the data byte and the CRC bytes are free. -/
def setOutputRow : TableRow :=
  { row := .setOutput
    pattern := [0xF7, 0x01, 0x0A, 0x1E, 0x01, 0x00, 0x00, 0x00, 0x00, 0xFD]
    mask := [0xFF, 0xFF, 0xFF, 0xFF, 0xFF, 0xFF, 0xFE, 0x00, 0x00, 0xFF] }

/-- The row of a Set command with a count: opcode `op` fixed, the count and the CRC bytes free. -/
def setCountRow (row : WireRow) (op : Byte) : TableRow :=
  { row := row
    pattern := [0xF7, 0x01, 0x0A, op, 0x01, 0x00, 0x00, 0x00, 0x00, 0xFD]
    mask := [0xFF, 0xFF, 0xFF, 0xFF, 0xFF, 0x00, 0x00, 0x00, 0x00, 0xFF] }

/-- The row of the response: only the two markers are fixed. -/
def responseRow : TableRow :=
  { row := .statusResponse
    pattern := [0xF7, 0x00, 0x00, 0x00, 0x00, 0x00, 0x00, 0x00, 0x00, 0x00, 0x00, 0x00, 0x00, 0xFD]
    mask := [0xFF, 0x00, 0x00, 0x00, 0x00, 0x00, 0x00, 0x00, 0x00, 0x00, 0x00, 0x00, 0x00, 0xFF] }

/-- The payload of a Set command with a count: that of `SetVoltage` and `SetCurrent` but for the opcode. -/
def setCountPayload (op : Byte) (n : Word) : List Byte := [Config.addr, 0x01, 0x0A, op, 0x01, hi8 n, lo8 n]

theorem mem_wireTable (r : TableRow) : r ∈ wireTable ↔
    r = readValuesRow ∨ r = setOutputRow ∨ r = setCountRow .setVoltage 0x09 ∨ r = setCountRow .setCurrent 0x0A ∨
      r = responseRow := by
  have htable : wireTable = [readValuesRow, setOutputRow, setCountRow .setVoltage 0x09,
    setCountRow .setCurrent 0x0A, responseRow] := rfl
  simp [htable]

theorem isInstance_readValuesRow (f : List Byte) : readValuesRow.isInstance f = true ↔ f = encodeReadValues := by
  simp only [isInstance_iff_matches, readValuesRow, matches_cons_ff, matches_nil, exists_eq_right, encodeReadValues_eq]

/-- The bit of `SetOutput`'s data byte that the mask leaves free is its operand (R77). -/
theorem matches_cons_fe (mask pattern f : List Byte) :
    Matches (0xFE :: mask) (0x00 :: pattern) f ↔ ∃ x g, f = outputByte x :: g ∧ Matches mask pattern g := by
  have hbit (b : Byte) : b &&& 0xFE = 0x00 ↔ ∃ x, b = outputByte x := by
    revert b; decide
  simp only [matches_cons, hbit]
  constructor
  · rintro ⟨_, g, rfl, ⟨x, rfl⟩, hg⟩
    exact ⟨x, g, rfl, hg⟩
  · rintro ⟨x, g, rfl, hg⟩
    exact ⟨_, g, rfl, ⟨x, rfl⟩, hg⟩

theorem isInstance_setOutputRow (f : List Byte) : setOutputRow.isInstance f = true ↔
    ∃ b c₁ c₂, f = setOutputPayload b ++ [c₁, c₂, Config.term] := by
  simp only [isInstance_iff_matches, setOutputRow, matches_cons_ff, matches_cons_zero, matches_cons_fe, matches_nil,
    exists_and_exists_iff, exists_eq_right]
  rfl

theorem isInstance_setCountRow (row : WireRow) (op : Byte) (f : List Byte) :
    (setCountRow row op).isInstance f = true ↔ ∃ n c₁ c₂, f = setCountPayload op n ++ [c₁, c₂, Config.term] := by
  simp only [isInstance_iff_matches, setCountRow, matches_cons_ff, matches_cons_zero, matches_nil,
    exists_and_exists_iff, exists_eq_right]
  constructor
  · rintro ⟨h, l, c₁, c₂, rfl⟩
    exact ⟨be16 h l, c₁, c₂, by simp [setCountPayload, hi8_be16, lo8_be16, Config.addr, Config.term]⟩
  · rintro ⟨n, c₁, c₂, rfl⟩
    exact ⟨hi8 n, lo8 n, c₁, c₂, rfl⟩

theorem isInstance_responseRow (f : List Byte) : responseRow.isInstance f = true ↔ isResponseFrame f = true := by
  simp only [isInstance_iff_matches, responseRow, matches_cons_ff, matches_cons_zero, matches_nil,
    exists_and_exists_iff, exists_eq_right]
  constructor
  · rintro ⟨b₁, b₂, b₃, b₄, b₅, b₆, b₇, b₈, b₉, b₁₀, b₁₁, b₁₂, rfl⟩
    rfl
  · intro h
    simp only [isResponseFrame, Bool.and_eq_true, beq_iff_eq] at h
    obtain ⟨⟨hlen, haddr⟩, hterm⟩ := h
    match f, hlen with
    | [b₀, b₁, b₂, b₃, b₄, b₅, b₆, b₇, b₈, b₉, b₁₀, b₁₁, b₁₂, b₁₃], _ =>
      cases haddr
      cases hterm
      exact ⟨b₁, b₂, b₃, b₄, b₅, b₆, b₇, b₈, b₉, b₁₀, b₁₁, b₁₂, rfl⟩

/-! ### Rows exclude each other -/

theorem length_of_isInstance {r : TableRow} {f : List Byte} (h : r.isInstance f = true) :
    f.length = r.mask.length :=
  ((isInstance_iff_matches r f).mp h).1

/-- A byte whose bits are all fixed is the pattern's. -/
theorem getElem?_of_isInstance {r : TableRow} {f : List Byte} {k : Nat} (h : r.isInstance f = true)
    (hk : r.mask[k]? = some 0xFF) : f[k]? = r.pattern[k]? := by
  obtain ⟨-, hpattern⟩ := (isInstance_iff_matches r f).mp h
  rw [← hpattern, List.getElem?_zipWith, hk]
  cases f[k]? with
  | none => rfl
  | some b => exact congrArg some BitVec.and_allOnes.symm

/-- Two different rows of one length are command rows, and fix the opcode byte at index 3 to two values. -/
theorem wireTable_opcodes_differ : ∀ r ∈ wireTable, ∀ r' ∈ wireTable,
    r = r' ∨ r.mask.length ≠ r'.mask.length ∨
      (r.mask[3]? = some 0xFF ∧ r'.mask[3]? = some 0xFF ∧ r.pattern[3]? ≠ r'.pattern[3]?) := by
  decide

/-- Settles O15. -/
theorem wireRowsAreDisjoint : Obligations.WireRowsAreDisjoint := by
  intro r hr r' hr' f h h'
  obtain heq | hlen | ⟨hm, hm', hp⟩ := wireTable_opcodes_differ r hr r' hr'
  · exact heq
  · exact absurd ((length_of_isInstance h).symm.trans (length_of_isInstance h')) hlen
  · exact absurd ((getElem?_of_isInstance h hm).symm.trans (getElem?_of_isInstance h' hm')) hp

/-- Which row the decoder finds does not depend on the order of the table. -/
theorem decodeFrame_of_isInstance {r : TableRow} {f : List Byte} (hr : r ∈ wireTable) (h : r.isInstance f = true) :
    decodeFrame f = .ok (wireInstr r.row f) := by
  rw [decodeFrame]
  cases hfind : wireTable.find? (·.isInstance f) with
  | none => exact absurd h (List.find?_eq_none.mp hfind r hr)
  | some r' =>
    have hf : r'.isInstance f = true := by simpa using List.find?_some hfind
    rw [wireRowsAreDisjoint r' (List.mem_of_find?_eq_some hfind) r hr f hf h]

/-! ### What the decoder reads from each shape -/

theorem decodeFrame_encodeReadValues : decodeFrame encodeReadValues = .ok .readValues :=
  decodeFrame_of_isInstance ((mem_wireTable _).mpr (.inl rfl)) ((isInstance_readValuesRow _).mpr rfl)

theorem getLsbD_outputByte (b : Bool) : (outputByte b).getLsbD 0 = b := by
  cases b <;> decide

theorem wireInstr_setOutputPayload (b : Bool) (c₁ c₂ : Byte) :
    wireInstr .setOutput (setOutputPayload b ++ [c₁, c₂, Config.term]) = .setOutput b :=
  congrArg Instr.setOutput (getLsbD_outputByte b)

theorem wireInstr_setVoltagePayload (n : Word) (c₁ c₂ : Byte) :
    wireInstr .setVoltage (setVoltagePayload n ++ [c₁, c₂, Config.term]) = .setVoltage (n.toNat / Config.vScale) :=
  congrArg (fun w : Word => Instr.setVoltage (w.toNat / Config.vScale)) (be16_hi8_lo8 n)

theorem wireInstr_setCurrentPayload (n : Word) (c₁ c₂ : Byte) :
    wireInstr .setCurrent (setCurrentPayload n ++ [c₁, c₂, Config.term]) = .setCurrent (n.toNat / Config.iScale) :=
  congrArg (fun w : Word => Instr.setCurrent (w.toNat / Config.iScale)) (be16_hi8_lo8 n)

theorem decodeFrame_setOutputPayload (b : Bool) (c₁ c₂ : Byte) :
    decodeFrame (setOutputPayload b ++ [c₁, c₂, Config.term]) = .ok (.setOutput b) :=
  wireInstr_setOutputPayload b c₁ c₂ ▸ decodeFrame_of_isInstance (r := setOutputRow)
    ((mem_wireTable _).mpr (by simp)) ((isInstance_setOutputRow _).mpr ⟨b, c₁, c₂, rfl⟩)

theorem decodeFrame_setVoltagePayload (n : Word) (c₁ c₂ : Byte) :
    decodeFrame (setVoltagePayload n ++ [c₁, c₂, Config.term]) = .ok (.setVoltage (n.toNat / Config.vScale)) :=
  wireInstr_setVoltagePayload n c₁ c₂ ▸ decodeFrame_of_isInstance (r := setCountRow .setVoltage 0x09)
    ((mem_wireTable _).mpr (by simp)) ((isInstance_setCountRow _ _ _).mpr ⟨n, c₁, c₂, rfl⟩)

theorem decodeFrame_setCurrentPayload (n : Word) (c₁ c₂ : Byte) :
    decodeFrame (setCurrentPayload n ++ [c₁, c₂, Config.term]) = .ok (.setCurrent (n.toNat / Config.iScale)) :=
  wireInstr_setCurrentPayload n c₁ c₂ ▸ decodeFrame_of_isInstance (r := setCountRow .setCurrent 0x0A)
    ((mem_wireTable _).mpr (by simp)) ((isInstance_setCountRow _ _ _).mpr ⟨n, c₁, c₂, rfl⟩)

theorem decodeFrame_response {f : List Byte} (h : isResponseFrame f = true) :
    decodeFrame f = .ok (.statusResponse f) :=
  decodeFrame_of_isInstance (r := responseRow) ((mem_wireTable _).mpr (by simp)) ((isInstance_responseRow f).mpr h)

/-- Settles O17: the CRC bytes of the last three commands are free bits of their rows. -/
theorem specFramesDecode : Obligations.SpecFramesDecode := by
  refine ⟨?_, decodeFrame_setOutputPayload true 0x92 0x37, decodeFrame_setVoltagePayload 0x0202 0xD6 0xE2,
    decodeFrame_setCurrentPayload 0x00C8 0x57 0x91, ?_⟩
  · rw [← encodeReadValues_eq, decodeFrame_encodeReadValues]
  · have hframe : frameOfWord 64 0xFDE86203040301F7 = encodeReadValues := by
      rw [encodeReadValues_eq]; decide
    rw [decodeTableWord, hframe, decodeFrame_encodeReadValues]

/-! ### What no row matches -/

theorem getElem?_eq_some_byteAt {f : List Byte} {i : Nat} (h : i < f.length) : f[i]? = some (byteAt f i) := by
  simp [byteAt, h]

/-- The form R70 and R71 ask of every frame: its length, its address byte, its terminator. -/
def HasFrameForm (f : List Byte) : Prop :=
  (f.length = 8 ∨ f.length = 10 ∨ f.length = 14) ∧ f.head? = some 0xF7 ∧ f.getLast? = some 0xFD

/-- Every row has the form fixed in its mask and pattern. -/
theorem wireTable_fixes_form : ∀ r ∈ wireTable,
    (r.mask.length = 8 ∨ r.mask.length = 10 ∨ r.mask.length = 14) ∧
      (r.mask[0]? = some 0xFF ∧ r.pattern[0]? = some 0xF7) ∧
      (r.mask[r.mask.length - 1]? = some 0xFF ∧ r.pattern[r.mask.length - 1]? = some 0xFD) := by
  decide

theorem hasFrameForm_of_isInstance {r : TableRow} {f : List Byte} (hr : r ∈ wireTable)
    (h : r.isInstance f = true) : HasFrameForm f := by
  obtain ⟨hlen, ⟨hm, hp⟩, hm', hp'⟩ := wireTable_fixes_form r hr
  have hl := length_of_isInstance h
  refine ⟨hl ▸ hlen, ?_, ?_⟩
  · rw [List.head?_eq_getElem?, getElem?_of_isInstance h hm, hp]
  · rw [List.getLast?_eq_getElem?, hl, getElem?_of_isInstance h hm', hp']

theorem decodeFrame_of_not_hasFrameForm {f : List Byte} (h : ¬ HasFrameForm f) :
    decodeFrame f = .error (rejectReason f) := by
  have hfind : wireTable.find? (·.isInstance f) = none :=
    List.find?_eq_none.mpr fun r hr hf => h (hasFrameForm_of_isInstance hr hf)
  rw [decodeFrame, hfind]

theorem head?_eq_some_iff_byteAt {f : List Byte} {b : Byte} (hf : 0 < f.length) :
    f.head? = some b ↔ byteAt f 0 = b := by
  rw [List.head?_eq_getElem?, getElem?_eq_some_byteAt hf, Option.some.injEq]

theorem getLast?_eq_some_iff_byteAt {f : List Byte} {b : Byte} (hf : 0 < f.length) :
    f.getLast? = some b ↔ byteAt f (f.length - 1) = b := by
  rw [List.getLast?_eq_getElem?, getElem?_eq_some_byteAt (by omega), Option.some.injEq]

/-- Settles O16: what lacks the form matches no row, and `rejectReason` looks at the three parts in order. -/
theorem nonFramesRejectedByName : Obligations.NonFramesRejectedByName := by
  intro f
  refine ⟨fun h8 h10 h14 => ?_, fun hlen hhead => ?_, fun hlen hhead hlast => ?_⟩
  · rw [decodeFrame_of_not_hasFrameForm fun ⟨hform, _, _⟩ => by omega, rejectReason, if_pos ⟨h8, h10, h14⟩]
  · have haddr : byteAt f 0 ≠ Config.addr := mt (head?_eq_some_iff_byteAt (by omega)).mpr hhead
    rw [decodeFrame_of_not_hasFrameForm fun ⟨_, hform, _⟩ => hhead hform, rejectReason, if_neg (by omega),
      if_pos haddr]
  · have haddr : byteAt f 0 = Config.addr := (head?_eq_some_iff_byteAt (by omega)).mp hhead
    have hterm : byteAt f (f.length - 1) ≠ Config.term := mt (getLast?_eq_some_iff_byteAt (by omega)).mpr hlast
    rw [decodeFrame_of_not_hasFrameForm fun ⟨_, _, hform⟩ => hlast hform, rejectReason, if_neg (by omega),
      if_neg (not_not_intro haddr), if_pos hterm]

end Sys2Proof
end

section
/-! The encoder against the table decoder, both ways round (R90, R134), and what every command frame has in common
(R128, R133). -/

namespace Sys2Proof

open Sys2Proof.Machine

/-! ### Command frames -/

/-- A command's encoding is `frame` over a payload of format `CMD5` or `CMD7` (R72, R126). -/
theorem encode_command {tie : RoundTie} {i : Instr} {f : List Byte} (h : encode tie i = some f)
    (hc : ∀ cand, i ≠ .statusResponse cand) : ∃ p, (p.length = 5 ∨ p.length = 7) ∧ f = frame p := by
  cases i with
  | readValues => cases h; exact ⟨readValuesPayload, .inl rfl, rfl⟩
  | setOutput b => cases h; exact ⟨setOutputPayload b, .inr rfl, rfl⟩
  | setVoltage v => cases h; exact ⟨setVoltagePayload _, .inr rfl, rfl⟩
  | setCurrent a => cases h; exact ⟨setCurrentPayload _, .inr rfl, rfl⟩
  | statusResponse cand => exact absurd rfl (hc cand)
  | _ => cases h

/-- Settles O11: a command frame is shorter than 14 bytes. -/
theorem commandFramesNeverDecode : Obligations.CommandFramesNeverDecode := by
  intro verify tie i f h hc
  obtain ⟨p, hp, rfl⟩ := encode_command h hc
  exact decodeCandidate_eq_none.mpr (.inl (by rw [frame_length]; omega))

theorem frame_dropLast (p : List Byte) : (frame p).dropLast = p ++ crcEmitBytes (crc16 p) :=
  List.dropLast_concat

/-- Settles O12: what stands before the terminator is a message with its own CRC behind it. -/
theorem sentFramesHaveZeroResidue : Obligations.SentFramesHaveZeroResidue := by
  intro tie i f h hc
  obtain ⟨p, -, rfl⟩ := encode_command h hc
  rw [frame_dropLast, crc16_append_crcEmitBytes]

/-! ### Operands on the grid -/

theorem isCount_iff_exists_word (x : Rat) : isCount x = true ↔ ∃ n : Word, x = n.toNat := by
  rw [isCount_iff]
  constructor
  · rintro ⟨n, hn, rfl⟩
    exact ⟨BitVec.ofNat 16 n, by rw [BitVec.toNat_ofNat, Nat.mod_eq_of_lt (by omega)]⟩
  · rintro ⟨n, rfl⟩
    exact ⟨n.toNat, by omega, rfl⟩

/-- A product that is a 16-bit count is that count, whatever the tie rule. -/
theorem scale16_of_mul_eq {tie : RoundTie} {x k : Rat} {n : Word} (h : x * k = n.toNat) : scale16 tie x k = n := by
  apply BitVec.eq_of_toNat_eq
  have hround : roundRat tie (x * k) = n.toNat := by
    rw [h]
    exact roundRat_intCast tie n.toNat
  have hscale := scale16_toNat tie x k
  rw [hround, clamp16_of_mem (by omega) (by omega)] at hscale
  exact_mod_cast hscale

theorem encodeSetVoltage_div (tie : RoundTie) (n : Word) :
    encodeSetVoltage tie (n.toNat / Config.vScale) = frame (setVoltagePayload n) := by
  rw [encodeSetVoltage, scale16_of_mul_eq (div_mul_cancel₀ _ (by decide))]

theorem encodeSetCurrent_div (tie : RoundTie) (n : Word) :
    encodeSetCurrent tie (n.toNat / Config.iScale) = frame (setCurrentPayload n) := by
  rw [encodeSetCurrent, scale16_of_mul_eq (div_mul_cancel₀ _ (by decide))]

theorem encode_statusResponse {f : List Byte} (h : isResponseFrame f = true) (tie : RoundTie) :
    encode tie (.statusResponse f) = some f := by
  simp only [isResponseFrame, Bool.and_eq_true, beq_iff_eq, and_assoc] at h
  exact if_pos h

/-! ### The two round trips -/

/-- Settles O13, row by row: a Set operand on the grid is `n` over the scale for a 16-bit count `n`. -/
theorem decodeEncodeRoundTrip : Obligations.DecodeEncodeRoundTrip := by
  intro tie i hi
  cases i with
  | readValues => exact ⟨encodeReadValues, rfl, decodeFrame_encodeReadValues⟩
  | setOutput b =>
    refine ⟨encodeSetOutput b, rfl, ?_⟩
    rw [encodeSetOutput, frame_eq]
    exact decodeFrame_setOutputPayload b _ _
  | setVoltage v =>
    obtain ⟨n, hn⟩ := (isCount_iff_exists_word _).mp hi
    obtain rfl : v = n.toNat / Config.vScale := eq_div_of_mul_eq (by decide) hn
    refine ⟨_, congrArg some (encodeSetVoltage_div tie n), ?_⟩
    rw [frame_eq]
    exact decodeFrame_setVoltagePayload n _ _
  | setCurrent a =>
    obtain ⟨n, hn⟩ := (isCount_iff_exists_word _).mp hi
    obtain rfl : a = n.toNat / Config.iScale := eq_div_of_mul_eq (by decide) hn
    refine ⟨_, congrArg some (encodeSetCurrent_div tie n), ?_⟩
    rw [frame_eq]
    exact decodeFrame_setCurrentPayload n _ _
  | statusResponse cand => exact ⟨cand, encode_statusResponse hi tie, decodeFrame_response hi⟩
  | _ => cases hi

/-- The one frame with the payload of `f`, which for a response is `f` itself: the filling of R90 that the block emits. -/
def reframe (f : List Byte) : List Byte :=
  if f.length = 14 then f
  else f.take (f.length - 3) ++ crcEmitBytes (crc16 (f.take (f.length - 3))) ++ [0xFD]

theorem reframe_payload {p : List Byte} (hp : p.length = 5 ∨ p.length = 7) (c₁ c₂ t : Byte) :
    reframe (p ++ [c₁, c₂, t]) = frame p := by
  have hlen : (p ++ [c₁, c₂, t]).length = p.length + 3 := List.length_append
  have htake : (p ++ [c₁, c₂, t]).take (p.length + 3 - 3) = p := List.take_left
  rw [reframe, hlen, if_neg (by omega), htake]
  rfl

/-- Re-encoding what the decoder read, from each shape of `mem_wireTable`. -/
theorem encode_of_decodeFrame {tie : RoundTie} {f : List Byte} {i : Instr} (h : decodeFrame f = .ok i) :
    encode tie i = some (reframe f) := by
  obtain ⟨r, hr, hf, -⟩ := decodeFrame_eq_ok h
  obtain rfl | rfl | rfl | rfl | rfl := (mem_wireTable r).mp hr
  · obtain rfl := (isInstance_readValuesRow f).mp hf
    cases decodeFrame_encodeReadValues.symm.trans h
    rw [encodeReadValues, frame_eq, reframe_payload (.inl rfl)]
    rfl
  · obtain ⟨b, c₁, c₂, rfl⟩ := (isInstance_setOutputRow f).mp hf
    cases (decodeFrame_setOutputPayload b c₁ c₂).symm.trans h
    rw [reframe_payload (.inr rfl)]
    rfl
  · obtain ⟨n, c₁, c₂, rfl⟩ := (isInstance_setCountRow _ _ f).mp hf
    cases (decodeFrame_setVoltagePayload n c₁ c₂).symm.trans h
    rw [reframe_payload (.inr rfl)]
    exact congrArg some (encodeSetVoltage_div tie n)
  · obtain ⟨n, c₁, c₂, rfl⟩ := (isInstance_setCountRow _ _ f).mp hf
    cases (decodeFrame_setCurrentPayload n c₁ c₂).symm.trans h
    rw [reframe_payload (.inr rfl)]
    exact congrArg some (encodeSetCurrent_div tie n)
  · have hresp := (isInstance_responseRow f).mp hf
    cases (decodeFrame_response hresp).symm.trans h
    have hlen : f.length = 14 := length_of_isInstance hf
    rw [encode_statusResponse hresp, reframe, if_pos hlen]

/-- Settles O14. -/
theorem reencodingKeepsPayload : Obligations.ReencodingKeepsPayload :=
  fun _ _ _ => encode_of_decodeFrame

end Sys2Proof
end

section
/-! What `decode` reads from a candidate, in the arithmetic of R80, and which bytes it reads (R82). -/

namespace Sys2Proof.Machine

theorem exec_statusResponse (cand : List Byte) (s : State) : exec (.statusResponse cand) s =
    .next { s with result := .decoded (decodeCandidate s.params.verifyRxCrc cand) } := rfl

/-- The measurement in the arithmetic of R80. -/
theorem measurement_eq (cand : List Byte) : measurement cand =
    { outputState := (byteAt cand 5).getLsbD 5
      voltage := (256 * (byteAt cand 7).toNat + (byteAt cand 8).toNat : Rat) / 100
      current := (256 * (byteAt cand 9).toNat + (byteAt cand 10).toNat : Rat) / 1000 } := by
  simp [measurement, outputBit_eq, be16_toNat, Config.vScale, Config.iScale]

/-- Without verification the two markers alone decide. -/
theorem decodeCandidate_unverified {cand : List Byte} (h : 14 ≤ cand.length) : decodeCandidate false cand =
    if byteAt cand 0 = Config.addr ∧ byteAt cand 13 = Config.term then some (measurement cand) else none := by
  split
  · next hm => exact decodeCandidate_eq_some.mpr ⟨h, hm.1, hm.2, by simp, rfl⟩
  · next hm => exact decodeCandidate_eq_none.mpr (by tauto)

/-- Settles O7. -/
theorem decodeReadsMeasurementFields : Obligations.DecodeReadsMeasurementFields := by
  intro s b1 b2 b3 b4 b5 b6 b7 b8 b9 b10 b11 b12 hv
  rw [exec_statusResponse, hv, decodeCandidate_unverified (by simp), if_pos ⟨rfl, rfl⟩, measurement_eq]
  rfl

theorem byteAt_congr {f g : List Byte} {i : Nat} (h : f[i]? = g[i]?) : byteAt f i = byteAt g i := by
  rw [byteAt, byteAt, List.getD_eq_getElem?_getD, h, List.getD_eq_getElem?_getD]

/-- Settles O10: `decodeCandidate_unverified` and `measurement_eq` name every bit that is read. -/
theorem decodeIgnoresUnexaminedBits : Obligations.DecodeIgnoresUnexaminedBits := by
  intro s cand cand' hv hlen hlen' hbytes hbit
  have heq : ∀ i ∈ [0, 7, 8, 9, 10, 13], byteAt cand i = byteAt cand' i := fun i hi => byteAt_congr (hbytes i hi)
  simp only [List.forall_mem_cons] at heq
  obtain ⟨h0, h7, h8, h9, h10, h13, -⟩ := heq
  have h5 := hbit _ _ (getElem?_eq_some_byteAt (by omega)) (getElem?_eq_some_byteAt (by omega))
  refine ⟨_, exec_statusResponse cand s, ?_⟩
  rw [exec_statusResponse, hv, decodeCandidate_unverified hlen, decodeCandidate_unverified hlen', measurement_eq,
    measurement_eq, h0, h5, h7, h8, h9, h10, h13]

end Sys2Proof.Machine
end

section
/-! The operations over the CRC register one at a time (R101 to R105): the seed, one bit, one byte, a byte sequence,
and the two bytes emitted. -/

namespace Sys2Proof.Machine

/-- `crc_bit` in the arithmetic of R102: the logical shift is the halving, bit 0 the parity. -/
theorem crcBitStep_arith (c : Word) : crcBitStep c =
    if c.toNat % 2 = 1 then BitVec.ofNat 16 (c.toNat / 2) ^^^ 0xA001 else BitVec.ofNat 16 (c.toNat / 2) := by
  have hshift : c >>> 1 = BitVec.ofNat 16 (c.toNat / 2) := by
    apply BitVec.eq_of_toNat_eq
    have := c.isLt
    rw [BitVec.toNat_ushiftRight, Nat.shiftRight_eq_div_pow, BitVec.toNat_ofNat]
    omega
  have hbit : c.getLsbD 0 = decide (c.toNat % 2 = 1) := Nat.testBit_zero c.toNat
  simp only [crcBitStep, Config.crcPoly, hshift, hbit, decide_eq_true_eq]

/-- R103: the byte in whole, then `crc_bit` eight times. -/
theorem crcByteStep_eq_iterate (c : Word) (b : Byte) : crcByteStep c b = crcBitStep^[8] (c ^^^ zext16 b) := rfl

/-- One byte more is one `crc_byte` more, on what was reached before. -/
theorem crc16_concat (bytes : List Byte) (b : Byte) : crc16 (bytes ++ [b]) = crcByteStep (crc16 bytes) b := by
  rw [crc16_append, crcUpdate_cons, crcUpdate_nil]

theorem exec_crcSeed (s : State) : exec .crcSeed s = .next { s with crc := Config.crcSeed, result := .done } := rfl

theorem exec_crcBit (s : State) : exec .crcBit s = .next { s with crc := crcBitStep s.crc, result := .done } := rfl

theorem exec_crcByte (b : Byte) (s : State) :
    exec (.crcByte b) s = .next { s with crc := crcByteStep s.crc b, result := .done } := rfl

theorem exec_crcEmit (c : Word) (s : State) :
    exec (.crcEmit c) s = .next { s with result := .bytes [lo8 c, hi8 c] } := rfl

/-- Settles O21: the value reached is `crc16 bytes`, and `crc16_concat` is the step to one more byte. -/
theorem crcModbusFoldsBytesInOrder : Obligations.CrcModbusFoldsBytesInOrder := by
  intro bytes s
  refine ⟨crc16 bytes, exec_crc16Modbus bytes s, ?empty, ?oneMore⟩
  case empty =>
    rintro rfl
    rfl
  case oneMore =>
    intro b t h
    cases (exec_crcByte b _).symm.trans h
    rw [exec_crc16Modbus, crc16_concat]

/-- Settles O18. -/
theorem crcSeedLoadsSeed : Obligations.CrcSeedLoadsSeed := exec_crcSeed

/-- Settles O19. -/
theorem crcBitShiftsAndXors : Obligations.CrcBitShiftsAndXors := by
  intro s
  rw [exec_crcBit, crcBitStep_arith]

/-- Settles O20: the function iterated there is `crcBitStep`, written out. -/
theorem crcByteIsEightCrcBits : Obligations.CrcByteIsEightCrcBits := by
  intro b s
  rw [exec_crcByte, crcByteStep_eq_iterate]
  rfl

/-- Settles O23. -/
theorem crcEmitLowByteFirst : Obligations.CrcEmitLowByteFirst := by
  intro c s
  rw [exec_crcEmit, lo8_eq_ofNat, hi8_eq_ofNat]

end Sys2Proof.Machine
end

section
/-! The count of a requested value (R124, R125, R127): the integer nearest to the scaled value, saturated to 16 bits. -/

namespace Sys2Proof.Machine

theorem abs_roundRat_sub_le (tie : RoundTie) (x : Rat) : |(roundRat tie x : Rat) - x| ≤ 1 / 2 := by
  have hle : (x.floor : Rat) ≤ x := Rat.floor_le x
  have hlt : x < x.floor + 1 := by exact_mod_cast Rat.lt_floor_add_one x
  rw [abs_le]
  obtain ⟨hr, hx⟩ | ⟨hr, hx⟩ := roundRat_cases tie x
  · rw [hr]
    constructor <;> linarith
  · rw [hr, Int.cast_add, Int.cast_one]
    constructor <;> linarith

/-- Rounding passes no integer: what is half away at most cannot be on the other side of one. -/
theorem roundRat_le_of_le {x : Rat} {n : Int} (tie : RoundTie) (h : x ≤ n) : roundRat tie x ≤ n := by
  have hr := (abs_le.mp (abs_roundRat_sub_le tie x)).2
  have : (roundRat tie x : Rat) < n + 1 := by linarith
  exact Int.lt_add_one_iff.mp (by exact_mod_cast this)

theorem le_roundRat_of_le {x : Rat} {n : Int} (tie : RoundTie) (h : (n : Rat) ≤ x) : n ≤ roundRat tie x := by
  have hr := (abs_le.mp (abs_roundRat_sub_le tie x)).1
  have : (n : Rat) < roundRat tie x + 1 := by linarith
  exact Int.lt_add_one_iff.mp (by exact_mod_cast this)

theorem clamp16_eq_max_min (n : Int) : clamp16 n = max 0 (min n 65535) := by
  simp only [clamp16]
  split_ifs <;> omega

/-- Neither rounding nor saturation carries the count above a bound of the exact product. -/
theorem scale16_toNat_le_of_le {x k : Rat} {n : Nat} (tie : RoundTie) (h : x * k ≤ n) :
    (scale16 tie x k).toNat ≤ n := by
  have hr : roundRat tie (x * k) ≤ n := roundRat_le_of_le tie (by exact_mod_cast h)
  have hs := scale16_toNat tie x k
  rw [clamp16_eq_max_min] at hs
  omega

theorem scale16_of_nonpos {x k : Rat} (tie : RoundTie) (h : x * k ≤ 0) : scale16 tie x k = 0 :=
  BitVec.eq_of_toNat_eq (Nat.le_zero.mp (scale16_toNat_le_of_le tie (by exact_mod_cast h)))

theorem scale16_of_ge {x k : Rat} (tie : RoundTie) (h : 65535 ≤ x * k) : scale16 tie x k = 65535 := by
  have hr : 65535 ≤ roundRat tie (x * k) := le_roundRat_of_le tie (by exact_mod_cast h)
  have hs := scale16_toNat tie x k
  rw [clamp16_eq_max_min] at hs
  apply BitVec.eq_of_toNat_eq
  change (scale16 tie x k).toNat = 65535
  omega

/-- Inside the 16-bit range nothing is saturated, and the count is the nearest integer. -/
theorem abs_scale16_toNat_sub_le {x k : Rat} (tie : RoundTie) (h0 : 0 ≤ x * k) (h1 : x * k ≤ 65535) :
    |((scale16 tie x k).toNat : Rat) - x * k| ≤ 1 / 2 := by
  have hr0 : 0 ≤ roundRat tie (x * k) := le_roundRat_of_le tie (by exact_mod_cast h0)
  have hr1 : roundRat tie (x * k) ≤ 65535 := roundRat_le_of_le tie (by exact_mod_cast h1)
  have hs := scale16_toNat tie x k
  rw [clamp16_of_mem hr0 hr1] at hs
  have : ((scale16 tie x k).toNat : Rat) = roundRat tie (x * k) := by exact_mod_cast hs
  rw [this]
  exact abs_roundRat_sub_le tie (x * k)

end Sys2Proof.Machine
end

section
/-! The Frame Codec's operations as whole results: the four encodings (R120 to R123), and what `decode` answers to a
candidate whose CRC is verified or that is malformed (R130). -/

namespace Sys2Proof.Machine

/-! ### The encodings -/

/-- Settles O1. -/
theorem encodeReadValuesFrame : Obligations.EncodeReadValuesFrame := by
  intro s
  rw [← encodeReadValues_eq]
  rfl

/-- Settles O2. -/
theorem encodeSetOutputFrame : Obligations.EncodeSetOutputFrame := by
  intro b s
  rw [← encodeSetOutput_eq]
  rfl

/-- A Set frame byte for byte, the count's bytes as quotient and remainder (R126, R45). -/
theorem frame_setCountPayload (op : Byte) (n : Word) : frame (setCountPayload op n) =
    [0xF7, 0x01, 0x0A, op, 0x01, BitVec.ofNat 8 (n.toNat / 256), BitVec.ofNat 8 (n.toNat % 256)] ++
      crcEmitBytes (crc16 [0xF7, 0x01, 0x0A, op, 0x01, BitVec.ofNat 8 (n.toNat / 256),
        BitVec.ofNat 8 (n.toNat % 256)]) ++ [0xFD] := by
  rw [← hi8_eq_ofNat, ← lo8_eq_ofNat]
  rfl

theorem encodeSetVoltage_eq (tie : RoundTie) (v : Rat) :
    encodeSetVoltage tie v = frame (setCountPayload 0x09 (scale16 tie v 100)) := rfl

theorem encodeSetCurrent_eq (tie : RoundTie) (a : Rat) :
    encodeSetCurrent tie a = frame (setCountPayload 0x0A (scale16 tie a 1000)) := rfl

theorem exec_setVoltage (v : Rat) (s : State) : exec (.setVoltage v) s =
    .next { s with result := .bytes (encodeSetVoltage s.params.roundTie v) } := rfl

theorem exec_setCurrent (a : Rat) (s : State) : exec (.setCurrent a) s =
    .next { s with result := .bytes (encodeSetCurrent s.params.roundTie a) } := rfl

/-- Settles O3, with the count `scale16` takes of `v`. -/
theorem encodeSetVoltageFrame : Obligations.EncodeSetVoltageFrame := by
  intro v s
  refine ⟨scale16 s.params.roundTie v 100, fun h => scale16_of_nonpos _ h.le, fun h => scale16_of_ge _ h.le,
    abs_scale16_toNat_sub_le _, ?_⟩
  rw [exec_setVoltage, encodeSetVoltage_eq, frame_setCountPayload]

/-- Settles O4, with the count `scale16` takes of `a`. -/
theorem encodeSetCurrentFrame : Obligations.EncodeSetCurrentFrame := by
  intro a s
  refine ⟨scale16 s.params.roundTie a 1000, fun h => scale16_of_nonpos _ h.le, fun h => scale16_of_ge _ h.le,
    abs_scale16_toNat_sub_le _, ?_⟩
  rw [exec_setCurrent, encodeSetCurrent_eq, frame_setCountPayload]

/-! ### The decoding -/

/-- With verification a candidate with both markers in place stands or falls with its CRC bytes (R110, D3). -/
theorem decodeCandidate_verified {cand : List Byte} (h : 14 ≤ cand.length) (h0 : byteAt cand 0 = Config.addr)
    (h13 : byteAt cand 13 = Config.term) : decodeCandidate true cand =
      if byteAt cand 11 = lo8 (crc16 (slice cand 0 10)) ∧ byteAt cand 12 = hi8 (crc16 (slice cand 0 10)) then
        some (measurement cand)
      else none := by
  have hok : crcCheckOk cand = true ↔
      byteAt cand 11 = lo8 (crc16 (slice cand 0 10)) ∧ byteAt cand 12 = hi8 (crc16 (slice cand 0 10)) := by
    rw [crcCheckOk_eq, Bool.and_eq_true, beq_iff_eq, beq_iff_eq]
  split
  · next hc => exact decodeCandidate_eq_some.mpr ⟨h, h0, h13, fun _ => hok.mpr hc, rfl⟩
  · next hc =>
    exact decodeCandidate_eq_none.mpr (.inr (.inr (.inr ⟨rfl, Bool.eq_false_of_not_eq_true (mt hok.mp hc)⟩)))

/-- Settles O8. -/
theorem decodeVerifiesCrcWhenAsked : Obligations.DecodeVerifiesCrcWhenAsked := by
  intro s b1 b2 b3 b4 b5 b6 b7 b8 b9 b10 b11 b12 rest hv
  rw [exec_statusResponse, hv, decodeCandidate_verified (by simp) rfl rfl, measurement_eq]
  rfl

/-- Settles O9: each of the three defects alone makes `decodeCandidate` answer `none`. -/
theorem decodeDropsMalformedCandidates : Obligations.DecodeDropsMalformedCandidates := by
  intro s cand hbad
  have hnone : decodeCandidate s.params.verifyRxCrc cand = none := by
    rw [decodeCandidate_eq_none]
    by_cases hlen : cand.length < 14
    · exact .inl hlen
    · rw [getElem?_eq_some_byteAt (by omega), getElem?_eq_some_byteAt (by omega)] at hbad
      obtain h | h | h := hbad
      · exact .inl h
      · exact .inr (.inl (mt (congrArg some) h))
      · exact .inr (.inr (.inl (mt (congrArg some) h)))
  rw [exec_statusResponse, hnone]

end Sys2Proof.Machine
end

section
/-! The two accepted Set commands of a connected Session (R204, R206): the nearest count goes onto the line, the
requested value itself into DeviceState. -/

namespace Sys2Proof.Machine

theorem guardedSend_of_connected {s : State} (hc : s.conn = .connected) (hl : s.live = true) (f : List Byte) (d : Delay)
    (dev : DeviceState) : guardedSend f d dev s =
      .next { s with
        tx := s.tx ++ f
        dev := dev
        confirmPending := confirmAdd d s.confirmPending
        result := .done } := by
  rw [guardedSend, if_pos ((isConnected_iff s).mpr ⟨hc, hl⟩), writeLine_of_live hl]
  rfl

theorem exec_sendSetVoltage_in {v : Rat} (s : State) (h0 : 0 ≤ v) (h1 : v ≤ 60) :
    exec (.sendSetVoltage (.rational v)) s =
      guardedSend (encodeSetVoltage s.params.roundTie v) .threeTenths { s.dev with setVoltage := v } s :=
  execSendSetVoltage_in s h0 h1

theorem exec_sendSetCurrent_in {a : Rat} (s : State) (h0 : 0 ≤ a) (h1 : a ≤ 6) :
    exec (.sendSetCurrent (.rational a)) s =
      guardedSend (encodeSetCurrent s.params.roundTie a) .threeTenths { s.dev with setCurrent := a } s :=
  execSendSetCurrent_in s h0 h1

/-- Settles O44: `60` volts are `6000` counts, so the count is not saturated. -/
theorem sendSetVoltageSendsAndRecords : Obligations.SendSetVoltageSendsAndRecords := by
  intro v s hc hl h0 h1
  refine ⟨(scale16 s.params.roundTie v 100).toNat, scale16_toNat_le_of_le _ (by norm_num; linarith),
    abs_scale16_toNat_sub_le _ (by linarith) (by linarith), ?_⟩
  rw [exec_sendSetVoltage_in s h0 h1, guardedSend_of_connected hc hl, encodeSetVoltage_eq, frame_setCountPayload]
  rfl

/-- Settles O45: `6` amperes are `6000` counts, so the count is not saturated. -/
theorem sendSetCurrentSendsAndRecords : Obligations.SendSetCurrentSendsAndRecords := by
  intro a s hc hl h0 h1
  refine ⟨(scale16 s.params.roundTie a 1000).toNat, scale16_toNat_le_of_le _ (by norm_num; linarith),
    abs_scale16_toNat_sub_le _ (by linarith) (by linarith), ?_⟩
  rw [exec_sendSetCurrent_in s h0 h1, guardedSend_of_connected hc hl, encodeSetCurrent_eq, frame_setCountPayload]
  rfl

end Sys2Proof.Machine
end

section
/-! The extraction loop on whole buffers (R150 to R155): one iteration of `rx_chunk`, and the losses and the recovery
that follow from it (R158, R160, R266, R267). -/

namespace Sys2Proof.Machine

/-! ### One iteration -/

/-- The result that stands in the state before is of no account to `rx_chunk`. -/
theorem execRxChunk_setResult (bytes : List Byte) (s : State) (x : Result) :
    execRxChunk bytes { s with result := x } = execRxChunk bytes s := by
  by_cases hl : s.live = true
  · by_cases hc : fitsCap s.params.rxBufCap (s.buf.length + bytes.length) = true
    · rw [execRxChunk_of_live hl hc, execRxChunk_of_live (s := { s with result := x }) hl hc, applyAll_setResult]
    · simp [execRxChunk, hl, hc]
  · have hoff := Bool.eq_false_of_not_eq_true hl
    exact (execRxChunk_of_not_live (s := { s with result := x }) hoff bytes).trans
      (execRxChunk_of_not_live hoff bytes).symm

/-- One iteration: the candidate between the first markers is handed over and everything up to the first `0xFD`
removed; `rx_chunk` of nothing does the rest. -/
theorem execRxChunk_extract {s : State} {bytes : List Byte} {a e : Nat} (hl : s.live = true)
    (hc : fitsCap s.params.rxBufCap (s.buf.length + bytes.length) = true)
    (ha : first (s.buf ++ bytes) Config.addr = some a) (he : first (s.buf ++ bytes) Config.term = some e) :
    execRxChunk bytes s = execRxChunk [] (afterScan
      ((decodeCandidate s.params.verifyRxCrc (slice (s.buf ++ bytes) a e)).toList, (s.buf ++ bytes).drop (e + 1)) s) := by
  have hlen : ((s.buf ++ bytes).drop (e + 1)).length + ([] : List Byte).length ≤ s.buf.length + bytes.length := by simp
  rw [execRxChunk_eq_afterScan _ hl hc le_rfl, scan_extract _ (by simp) ha he,
    execRxChunk_eq_afterScan (s.buf.length + bytes.length) (by simpa using hl)
      (by simpa using fitsCap_mono hlen hc) hlen,
    afterScan_afterScan, afterScan_params, afterScan_buf, List.append_nil]

/-- What `rx_chunk` answers once the scan of the appended buffer is known. -/
theorem exec_rxChunk_of_scan {s : State} {bytes : List Byte} (found : List Response × List Byte) (hl : s.live = true)
    (hc : fitsCap s.params.rxBufCap (s.buf.length + bytes.length) = true)
    (h : scan s.params.verifyRxCrc (s.buf.length + bytes.length) (s.buf ++ bytes) = found) :
    exec (.rxChunk bytes) s = .next (afterScan found s) := by
  rw [← h]
  exact execRxChunk_eq_afterScan _ hl hc le_rfl

/-- Settles O25. -/
theorem rxLoopExtractsAtFirstMarkers : Obligations.RxLoopExtractsAtFirstMarkers := by
  intro bytes s hl hc
  refine ⟨fun a e u ha he hu => ?_, fun h =>
    exec_rxChunk_of_scan _ hl hc (scan_of_resting _ _ ((restingBuf_iff _).mpr h))⟩
  refine (execRxChunk_extract hl hc ha he).trans ?_
  cases hdec : decodeCandidate s.params.verifyRxCrc (slice (s.buf ++ bytes) a e) with
  | some r =>
    rw [hdec] at hu
    cases hu
    rfl
  | none =>
    rw [hdec] at hu
    cases hu
    exact execRxChunk_setResult [] { s with buf := (s.buf ++ bytes).drop (e + 1) } .done

/-! ### Which candidates decode -/

/-- Settles O27. -/
theorem onlyFourteenByteCandidatesDecode : Obligations.OnlyFourteenByteCandidatesDecode := by
  intro verify buf a e r ha he hdec
  obtain ⟨hlen, -, hterm, -, -⟩ := decodeCandidate_eq_some.mp hdec
  have hslice := slice_length (i := a) (first_lt_length he)
  have hge : a + 13 ≤ e := by omega
  have hbuf : buf[a + 13]? = some Config.term := by
    rw [← slice_getElem? hge, getElem?_eq_some_byteAt (by omega), hterm]
  have hle : ¬ a + 13 < e := fun hlt => (first_eq_some.mp he).2 _ hlt hbuf
  omega

/-- A first terminator before index 13 cuts a candidate too short for a response, wherever it starts. -/
theorem decodeCandidate_slice_of_early_term (verify : Bool) {buf : List Byte} (a : Nat) {e : Nat}
    (he : first buf Config.term = some e) (h : e < 13) : decodeCandidate verify (slice buf a e) = none := by
  have hslice := slice_length (i := a) (first_lt_length he)
  exact decodeCandidate_eq_none.mpr (.inl (by omega))

/-- A buffer too short for a response yields none, however it is cut. -/
theorem scan_of_short (verify : Bool) (n : Nat) {buf : List Byte} (h : buf.length < 14) :
    (scan verify n buf).1 = [] := by
  induction n generalizing buf with
  | zero => rfl
  | succ n ih =>
    rw [scan]
    split
    · next a e _ he =>
      have hlt := first_lt_length he
      rw [decodeCandidate_slice_of_early_term verify a he (by omega), ih (by simp; omega)]
      rfl
    · rfl
    · rfl

/-! ### Garbage before a frame -/

theorem slice_append_right (g w : List Byte) (a e : Nat) :
    slice (g ++ w) (g.length + a) (g.length + e) = slice w a e := by
  rw [slice, slice, Nat.add_assoc, List.take_length_add_append, List.drop_length_add_append]

theorem slice_of_lt {buf : List Byte} {a e : Nat} (h : e < a) : slice buf a e = [] := by
  rw [slice, List.drop_eq_nil_of_le]
  simp; omega

/-- Bytes without a `0xF7` before a buffer with both markers leave no trace: the terminators among them cut inverted
ranges (D4), what follows these only shifts the first candidate. -/
theorem scan_append_of_addr_not_mem (verify : Bool) {n : Nat} {g w : List Byte} {a e : Nat}
    (hn : (g ++ w).length ≤ n) (hg : Config.addr ∉ g)
    (ha : first w Config.addr = some a) (he : first w Config.term = some e) :
    scan verify n (g ++ w) = scan verify n w := by
  have ha' : first (g ++ w) Config.addr = some (a + g.length) := by rw [first_append_right w hg, ha]; rfl
  cases hk : first g Config.term with
  | some k =>
    have hlt := first_lt_length hk
    have ih := scan_append_of_addr_not_mem verify (n := n) (g := g.drop (k + 1)) (w := w)
      (by simp at hn ⊢; omega) (mt List.mem_of_mem_drop hg) ha he
    rw [scan_extract verify hn ha' (first_append_left w hk), slice_of_lt (by omega),
      List.drop_append_of_le_length hlt, ih]
    rfl
  | none =>
    have he' : first (g ++ w) Config.term = some (e + g.length) := by
      rw [first_append_right w (first_eq_none.mp hk), he]; rfl
    rw [scan_extract verify hn ha' he', scan_extract verify (n := n) (by simp at hn; omega) ha he,
      Nat.add_comm a, Nat.add_comm e, slice_append_right, Nat.add_assoc, List.drop_length_add_append]
termination_by g.length
decreasing_by simp; omega

/-! ### Whole frames in the buffer -/

/-- A frame of R70: `inner` between the two markers. -/
def wholeFrame (inner : List Byte) : List Byte := Config.addr :: inner ++ [Config.term]

@[simp] theorem wholeFrame_length (inner : List Byte) : (wholeFrame inner).length = inner.length + 2 := by
  simp [wholeFrame]

theorem first_addr_wholeFrame (inner : List Byte) : first (wholeFrame inner) Config.addr = some 0 := rfl

theorem term_mem_addr_cons {inner : List Byte} : Config.term ∈ Config.addr :: inner ↔ Config.term ∈ inner := by
  simp [Config.term, Config.addr]

/-- The first terminator of a frame is its last byte when none stands inside. -/
theorem first_term_wholeFrame {inner : List Byte} (h : Config.term ∉ inner) :
    first (wholeFrame inner) Config.term = some (inner.length + 1) := by
  rw [wholeFrame, first_append_right _ (mt term_mem_addr_cons.mp h)]
  simp [first]

theorem exists_first_of_mem {s : List Byte} {b : Byte} (h : b ∈ s) : ∃ i, first s b = some i :=
  Option.ne_none_iff_exists'.mp (mt first_eq_none.mp (not_not.mpr h))

/-- A terminator inside a frame is found before its last byte. -/
theorem first_term_wholeFrame_of_mem {inner : List Byte} (h : Config.term ∈ inner) :
    ∃ e ≤ inner.length, first (wholeFrame inner) Config.term = some e := by
  obtain ⟨e, he⟩ := exists_first_of_mem (term_mem_addr_cons.mpr h)
  exact ⟨e, Nat.le_of_lt_succ (first_lt_length he), first_append_left _ he⟩

/-- A frame without a terminator inside is its own candidate, and nothing is left behind it. -/
theorem scan_wholeFrame (verify : Bool) {n : Nat} {inner : List Byte} (hn : (wholeFrame inner).length ≤ n)
    (h : Config.term ∉ inner) :
    scan verify n (wholeFrame inner) = ((decodeCandidate verify (wholeFrame inner)).toList, []) := by
  have hslice : slice (wholeFrame inner) 0 (inner.length + 1) = wholeFrame inner :=
    List.take_of_length_le (by simp)
  have hdrop : (wholeFrame inner).drop (inner.length + 1 + 1) = [] := List.drop_eq_nil_of_le (by simp)
  rw [scan_extract verify hn (first_addr_wholeFrame inner) (first_term_wholeFrame h), hslice, hdrop,
    scan_of_resting verify n rfl, List.append_nil]

/-- A terminator inside a 14-byte frame leaves only candidates that are too short. -/
theorem scan_wholeFrame_of_term_mem (verify : Bool) {n : Nat} {inner : List Byte} (hn : (wholeFrame inner).length ≤ n)
    (hlen : inner.length = 12) (h : Config.term ∈ inner) :
    ∃ rest, scan verify n (wholeFrame inner) = ([], rest) := by
  obtain ⟨e, hle, he⟩ := first_term_wholeFrame_of_mem h
  rw [scan_extract verify hn (first_addr_wholeFrame inner) he,
    decodeCandidate_slice_of_early_term verify 0 he (by omega), scan_of_short verify n (by simp; omega)]
  exact ⟨_, rfl⟩

/-- A stale start byte makes a candidate that is longer than a response, and the frame's terminator removes it all. -/
theorem scan_append_wholeFrame_of_addr_mem (verify : Bool) {n : Nat} {b inner : List Byte}
    (hn : (b ++ wholeFrame inner).length ≤ n) (hlen : inner.length = 12) (hb : Config.addr ∈ b) (hb' : Config.term ∉ b)
    (h : Config.term ∉ inner) : scan verify n (b ++ wholeFrame inner) = ([], []) := by
  obtain ⟨a, ha⟩ := exists_first_of_mem hb
  have hlt := first_lt_length ha
  have hstart := first_append_left (wholeFrame inner) ha
  have hend : first (b ++ wholeFrame inner) Config.term = some (inner.length + 1 + b.length) := by
    rw [first_append_right _ hb', first_term_wholeFrame h]
    rfl
  have hcand : decodeCandidate verify (slice (b ++ wholeFrame inner) a (inner.length + 1 + b.length)) = none := by
    refine Option.eq_none_iff_forall_ne_some.mpr fun r hr => ?_
    have := (onlyFourteenByteCandidatesDecode _ _ _ _ _ hstart hend hr).1
    omega
  have hdrop : (b ++ wholeFrame inner).drop (inner.length + 1 + b.length + 1) = [] :=
    List.drop_eq_nil_of_le (by simp; omega)
  rw [scan_extract verify hn hstart hend, hcand, hdrop, scan_of_resting verify n rfl]
  rfl

/-! ### Frames received after garbage, after a stale start, and with a terminator in the data -/

/-- After garbage without a `0xF7` a frame is handed over as if it came alone, with or without verification. -/
theorem exec_rxChunk_garbage_wholeFrame {s : State} {g inner : List Byte} (hl : s.live = true)
    (hc : fitsCap s.params.rxBufCap (s.buf.length + (g ++ wholeFrame inner).length) = true)
    (hg : Config.addr ∉ s.buf ++ g) (hinner : Config.term ∉ inner) :
    exec (.rxChunk (g ++ wholeFrame inner)) s =
      .next (afterScan ((decodeCandidate s.params.verifyRxCrc (wholeFrame inner)).toList, []) s) := by
  apply exec_rxChunk_of_scan _ hl hc
  rw [← List.append_assoc, scan_append_of_addr_not_mem _ (by simp) hg (first_addr_wholeFrame inner)
    (first_term_wholeFrame hinner), scan_wholeFrame _ (by simp; omega) hinner]

/-- Settles O28. -/
theorem rxGarbageThenFrameDecodesOnce : Obligations.RxGarbageThenFrameDecodesOnce := by
  intro s g b1 b2 b3 b4 b5 b6 b7 b8 b9 b10 b11 b12 hl hc hv hg hinner
  have h := exec_rxChunk_garbage_wholeFrame hl (by simpa using hc) hg hinner
  rw [hv, decodeCandidate_unverified (by simp), if_pos ⟨rfl, rfl⟩, measurement_eq] at h
  exact h

/-- Settles O29. -/
theorem rxStrayStartLosesNextFrame : Obligations.RxStrayStartLosesNextFrame := by
  intro s b1 b2 b3 b4 b5 b6 b7 b8 b9 b10 b11 b12 hl hc haddr hterm hinner
  exact exec_rxChunk_of_scan ([], []) hl hc
    (scan_append_wholeFrame_of_addr_mem _ (by simp) rfl haddr hterm hinner)

/-- Settles O30: whatever the buffer held leaves no trace, and the frame itself leaves only candidates too short. -/
theorem rxTerminatorInDataLosesFrame : Obligations.RxTerminatorInDataLosesFrame := by
  intro s b1 b2 b3 b4 b5 b6 b7 b8 b9 b10 b11 b12 hl hc haddr hinner
  obtain ⟨e, -, he⟩ := first_term_wholeFrame_of_mem hinner
  obtain ⟨rest, hrest⟩ := scan_wholeFrame_of_term_mem s.params.verifyRxCrc (n := s.buf.length + 14) (by simp) rfl hinner
  exact ⟨rest, exec_rxChunk_of_scan ([], rest) hl hc
    ((scan_append_of_addr_not_mem _ (by simp) haddr (first_addr_wholeFrame _) he).trans hrest)⟩

/-! ### The reset -/

/-- Settles O33. -/
theorem rxResetEmptiesBuffer : Obligations.RxResetEmptiesBuffer := fun _ => rfl

end Sys2Proof.Machine
end

section
/-! The Transport's operations as equations (R172 to R174, R177), and what they do without a live line (R176). -/

namespace Sys2Proof.Machine

theorem exec_tClose (s : State) : exec .tClose s = .next { s with live := false, result := .done } := rfl

theorem exec_linkLoss (s : State) : exec .linkLoss s = .next { s with live := false, result := .done } := rfl

theorem exec_tLive (s : State) : exec .tLive s = .next { s with result := .flag s.live } := rfl

theorem exec_tWrite (bytes : List Byte) (s : State) :
    exec (.tWrite bytes) s = .next { writeLine bytes s with result := .done } := rfl

theorem exec_tWrite_of_not_live {s : State} (hl : s.live = false) (bytes : List Byte) :
    exec (.tWrite bytes) s = .next { s with result := .done } := by
  rw [exec_tWrite, writeLine_of_not_live hl]

/-- Settles O35. -/
theorem closeAndLinkLossLowerLive : Obligations.CloseAndLinkLossLowerLive :=
  fun s => ⟨exec_tClose s, exec_linkLoss s⟩

/-- Settles O36. -/
theorem tLiveReportsLive : Obligations.TLiveReportsLive := exec_tLive

/-- Settles O37, on each side of the guard of `writeLine`. -/
theorem tWriteAppendsWhenLive : Obligations.TWriteAppendsWhenLive := by
  intro bytes s
  constructor
  · intro hl
    rw [exec_tWrite, writeLine_of_live hl]
  · intro hl
    exact exec_tWrite_of_not_live hl bytes

/-- An operation of R176 that completes returns `done`, or from `t_live` a flag. -/
theorem exec_transport_result {i : Instr} {bytes : List Byte} {s t : State}
    (hi : i = .tClose ∨ i = .tWrite bytes ∨ i = .rxChunk bytes ∨ i = .tLive) (h : exec i s = .next t) :
    t.result = .done ∨ t.result = .flag s.live := by
  obtain rfl | rfl | rfl | rfl := hi
  · cases (exec_tClose s).symm.trans h
    exact .inl rfl
  · cases (exec_tWrite bytes s).symm.trans h
    exact .inl rfl
  · obtain ⟨-, rfl⟩ | ⟨-, -, v, i, o, ns, b, rfl, -⟩ := execRxChunk_cases h
    · exact .inl rfl
    · exact .inl rfl
  · cases (exec_tLive s).symm.trans h
    exact .inr rfl

/-- Settles O38: a line that is not live is left as it is, and no result in `exec_transport_result` is an error. -/
theorem transportNoOpsWhenNotLive : Obligations.TransportNoOpsWhenNotLive := by
  intro bytes s
  constructor
  · intro hl
    refine ⟨?close, exec_tWrite_of_not_live hl bytes, execRxChunk_of_not_live hl bytes, ?report⟩
    case close => rw [exec_tClose, ← hl]
    case report => rw [exec_tLive, hl]
  · intro i t e hi h
    obtain hr | hr := exec_transport_result hi h <;> simp [hr]

end Sys2Proof.Machine
end

section
/-! The connection state machine of R216: what each of its events does to `conn`, and that no operation ends in
`Connecting`. -/

namespace Sys2Proof.Machine

theorem isConnected_of_not_live {s : State} (hl : s.live = false) : isConnected s = false := by
  rw [isConnected, hl, Bool.and_false]

/-- Cancelling the confirmation polls twice, or keeping them twice, is doing so once; the rest is constant. -/
theorem exec_disconnect_idempotent {s t : State} (h : exec .disconnect s = .next t) :
    exec .disconnect t = .next t := by
  cases (execDisconnect_eq s).symm.trans h
  refine (execDisconnect_eq _).trans ?_
  cases s.params.confirmCancelOnDisconnect <;> rfl

/-- Only `connect` and `disconnect` write `conn`, and both leave `Connecting` before they complete (R14). -/
theorem exec_conn_ne_connecting {i : Instr} {s t : State} (h : exec i s = .next t) (hs : s.conn ≠ .connecting) :
    t.conn ≠ .connecting := by
  obtain hconn | ⟨port, outcome, rfl⟩ | rfl := (exec_namedWriters h).conn
  · rwa [hconn]
  · cases outcome with
    | ok =>
      cases (execConnect_ok port s).symm.trans h
      exact nofun
    | err msg =>
      cases (execConnect_err port msg s).symm.trans h
      exact nofun
  · cases (execDisconnect_eq s).symm.trans h
    exact nofun

/-- Settles O58, one goal per row of R216; that all other operations keep `conn` is its line in `NamedWriters`. -/
theorem connectionStateMachine : Obligations.ConnectionStateMachine := by
  intro i s t h
  refine ⟨?opened, ?refused, ?disconnected, ?lost, ?kept, exec_conn_ne_connecting h⟩
  case opened =>
    rintro port rfl
    cases (execConnect_ok port s).symm.trans h
    exact ⟨rfl, rfl, rfl⟩
  case refused =>
    rintro port msg rfl
    cases (execConnect_err port msg s).symm.trans h
    exact ⟨rfl, rfl, rfl⟩
  case disconnected =>
    rintro rfl
    have hagain := exec_disconnect_idempotent h
    cases (execDisconnect_eq s).symm.trans h
    exact ⟨rfl, rfl, hagain⟩
  case lost =>
    rintro rfl
    cases (exec_linkLoss s).symm.trans h
    exact ⟨rfl, isConnected_of_not_live rfl⟩
  case kept =>
    intro hconnect hdisconnect
    obtain hconn | ⟨port, outcome, hi⟩ | hi := (exec_namedWriters h).conn
    · exact hconn
    · exact absurd hi (hconnect port outcome)
    · exact absurd hi hdisconnect

end Sys2Proof.Machine
end

section
/-! Commands without a range check on each side of the guard (R200, R202), and the response that comes back
(R212). -/

namespace Sys2Proof.Machine

theorem guardedSend_of_not_connected {s : State} (hn : ¬(s.conn = .connected ∧ s.live = true)) (f : List Byte)
    (d : Delay) (dev : DeviceState) : guardedSend f d dev s = .next { s with result := .done } := by
  rw [guardedSend, if_neg (mt (isConnected_iff s).mp hn), complete_eq]

theorem exec_sendReadValues (s : State) : exec .sendReadValues s =
    .next { s with tx := if isConnected s then s.tx ++ encodeReadValues else s.tx, result := .done } :=
  execSendReadValues_eq s

theorem exec_sendSetOutput (b : Bool) (s : State) : exec (.sendSetOutput b) s =
    guardedSend (encodeSetOutput b) .half { s.dev with outputState := b } s :=
  execSendSetOutput_eq b s

theorem exec_onResponse (r : Response) (s : State) :
    exec (.onResponse r) s = .next { applyResponse r s with result := .done } := rfl

/-- Settles O42. -/
theorem sendReadValuesWritesPoll : Obligations.SendReadValuesWritesPoll := by
  intro s
  rw [exec_sendReadValues]
  constructor
  · intro hc hl
    rw [if_pos ((isConnected_iff s).mpr ⟨hc, hl⟩), encodeReadValues_eq]
  · intro hn
    rw [if_neg (mt (isConnected_iff s).mp hn)]

/-- Settles O43. -/
theorem sendSetOutputUpdatesOptimistically : Obligations.SendSetOutputUpdatesOptimistically := by
  intro b s
  rw [exec_sendSetOutput]
  constructor
  · intro hc hl
    rw [guardedSend_of_connected hc hl, encodeSetOutput_eq]
    rfl
  · intro hn
    exact guardedSend_of_not_connected hn _ _ _

/-- Settles O50: `applyResponse` writes the three measurement registers and notifies with the same triple. -/
theorem onResponseAppliesAndNotifies : Obligations.OnResponseAppliesAndNotifies := exec_onResponse

end Sys2Proof.Machine
end

section
/-! The errors of R230: which operations return one (R231, R232), and that nothing else stops an operation on operands
of its domain. -/

namespace Sys2Proof.Machine

/-! ### The range checks and the guarded send behind them -/

theorem exec_sendSetVoltage_out {v : Quantity} (s : State) (h : inRange Config.vMin Config.vMax v = none) :
    exec (.sendSetVoltage v) s = .next { s with result := .raised .rangeError } :=
  execSendSetVoltage_out s h

theorem exec_sendSetCurrent_out {a : Quantity} (s : State) (h : inRange Config.iMin Config.iMax a = none) :
    exec (.sendSetCurrent a) s = .next { s with result := .raised .rangeError } :=
  execSendSetCurrent_out s h

theorem guardedSend_result {f : List Byte} {d : Delay} {dev : DeviceState} {s t : State}
    (h : guardedSend f d dev s = .next t) : t.result = .done := by
  obtain ⟨-, rfl⟩ | ⟨-, rfl⟩ := guardedSend_cases h <;> rfl

theorem guardedSend_completes (f : List Byte) (d : Delay) (dev : DeviceState) (s : State) :
    ∃ t, guardedSend f d dev s = .next t := by
  rw [guardedSend]
  split
  · exact ⟨_, complete_eq _ _⟩
  · exact ⟨_, complete_eq _ _⟩

/-- Settles O46: outside the range by `inRange_eq_none`, inside it by `guardedSend_result`. -/
theorem rangeErrorIsPrecise : Obligations.RangeErrorIsPrecise := by
  intro s
  refine ⟨fun v hv => exec_sendSetVoltage_out s (inRange_eq_none.mpr (.inr ⟨v, rfl, hv⟩)),
    fun a ha => exec_sendSetCurrent_out s (inRange_eq_none.mpr (.inr ⟨a, rfl, ha⟩)),
    exec_sendSetVoltage_out s (inRange_notANumber _ _), exec_sendSetCurrent_out s (inRange_notANumber _ _),
    ?voltage, ?current, ?output, ?poll⟩
  case voltage =>
    intro v t h0 h1 h
    exact guardedSend_result ((exec_sendSetVoltage_in s h0 h1).symm.trans h)
  case current =>
    intro a t h0 h1 h
    exact guardedSend_result ((exec_sendSetCurrent_in s h0 h1).symm.trans h)
  case output =>
    intro b t h
    exact guardedSend_result ((exec_sendSetOutput b s).symm.trans h)
  case poll =>
    intro t h
    cases (exec_sendReadValues s).symm.trans h
    rfl

/-! ### Who returns an error -/

/-- Settles O59, operation by operation: the others return `done` or a value. -/
theorem errorsComeFromNamedOperations : Obligations.ErrorsComeFromNamedOperations := by
  intro i s t e h hr
  cases i with
  | readValues | setOutput | setVoltage | setCurrent | statusResponse => cases h; cases hr
  | crcSeed | crcBit | crcByte | crc16Modbus | crcEmit | crcCheck => cases h; cases hr
  | rxChunk bytes => obtain ⟨-, rfl⟩ | ⟨-, -, v, i, o, ns, b, rfl, -⟩ := execRxChunk_cases h <;> cases hr
  | rxReset | tClose | tLive | tWrite | linkLoss => cases h; cases hr
  | tOpen port outcome =>
    cases outcome with
    | ok => cases h; cases hr
    | err msg => cases h; cases hr; exact .inr ⟨msg, rfl, port, .inl rfl⟩
  | connect port outcome =>
    cases outcome with
    | ok => cases (execConnect_ok port s).symm.trans h; cases hr
    | err msg =>
      cases (execConnect_err port msg s).symm.trans h
      cases hr
      exact .inr ⟨msg, rfl, port, .inr rfl⟩
  | startPolling interval => obtain ⟨q, -, rfl⟩ := execStartPolling_cases h; cases hr
  | sendSetOutput b =>
    cases (guardedSend_result ((exec_sendSetOutput b s).symm.trans h)).symm.trans hr
  | sendSetVoltage v =>
    obtain ⟨-, rfl⟩ | ⟨q, -, hsend⟩ := execSendSetVoltage_cases h
    · cases hr
      exact .inl ⟨rfl, .inl ⟨v, rfl⟩⟩
    · cases (guardedSend_result hsend).symm.trans hr
  | sendSetCurrent a =>
    obtain ⟨-, rfl⟩ | ⟨q, -, hsend⟩ := execSendSetCurrent_cases h
    · cases hr
      exact .inl ⟨rfl, .inr ⟨a, rfl⟩⟩
    · cases (guardedSend_result hsend).symm.trans hr
  | pollTick => cases (execPollTick_eq s).symm.trans h; cases hr
  | confirmTick d => cases (execConfirmTick_eq d s).symm.trans h; cases hr
  | disconnect | sendReadValues | onResponse | subscribe | notify => cases h; cases hr

/-! ### Completion -/

theorem execRxChunk_completes_of_unbounded {s : State} (hcap : s.params.rxBufCap = none) (bytes : List Byte) :
    ∃ t, execRxChunk bytes s = .next t := by
  cases hl : s.live with
  | false => exact ⟨_, execRxChunk_of_not_live hl bytes⟩
  | true => exact ⟨_, execRxChunk_of_live hl (by rw [hcap]; rfl)⟩

theorem execStartPolling_of_pollInterval {interval : Option Quantity} {q : Rat} (h : pollInterval interval = some q)
    (s : State) : execStartPolling interval s = complete .done (poll { s with pollSched := some q }) := by
  rw [execStartPolling, h]

theorem exec_sendSetVoltage_completes (v : Quantity) (s : State) : ∃ t, exec (.sendSetVoltage v) s = .next t := by
  cases hv : inRange Config.vMin Config.vMax v with
  | none => exact ⟨_, exec_sendSetVoltage_out s hv⟩
  | some q =>
    obtain ⟨rfl, h0, h1⟩ := inRange_eq_some.mp hv
    rw [exec_sendSetVoltage_in s h0 h1]
    exact guardedSend_completes _ _ _ s

theorem exec_sendSetCurrent_completes (a : Quantity) (s : State) : ∃ t, exec (.sendSetCurrent a) s = .next t := by
  cases ha : inRange Config.iMin Config.iMax a with
  | none => exact ⟨_, exec_sendSetCurrent_out s ha⟩
  | some q =>
    obtain ⟨rfl, h0, h1⟩ := inRange_eq_some.mp ha
    rw [exec_sendSetCurrent_in s h0 h1]
    exact guardedSend_completes _ _ _ s

/-- Settles O60: only `rx_chunk` and `start_polling` can refuse, for the two reasons the hypotheses exclude. -/
theorem wellFormedOperationsComplete : Obligations.WellFormedOperationsComplete := by
  intro i s hwf hcap
  cases i with
  | rxChunk bytes => exact execRxChunk_completes_of_unbounded hcap bytes
  | startPolling interval =>
    obtain ⟨q, hq⟩ := Option.isSome_iff_exists.mp hwf
    exact ⟨_, execStartPolling_of_pollInterval hq s⟩
  | tOpen port outcome => cases outcome <;> exact ⟨_, rfl⟩
  | connect port outcome =>
    cases outcome with
    | ok => exact ⟨_, execConnect_ok port s⟩
    | err msg => exact ⟨_, execConnect_err port msg s⟩
  | sendSetOutput b =>
    rw [exec_sendSetOutput]
    exact guardedSend_completes _ _ _ s
  | sendSetVoltage v => exact exec_sendSetVoltage_completes v s
  | sendSetCurrent a => exact exec_sendSetCurrent_completes a s
  | pollTick => exact ⟨_, execPollTick_eq s⟩
  | confirmTick d => exact ⟨_, execConfirmTick_eq d s⟩
  | readValues | setOutput | setVoltage | setCurrent | statusResponse => exact ⟨_, rfl⟩
  | crcSeed | crcBit | crcByte | crc16Modbus | crcEmit | crcCheck => exact ⟨_, rfl⟩
  | rxReset | tClose | tLive | tWrite | linkLoss => exact ⟨_, rfl⟩
  | disconnect | sendReadValues | onResponse | subscribe | notify => exact ⟨_, rfl⟩

end Sys2Proof.Machine
end

section
/-! The step on a wire pattern at the head of `inputs` (R90, R249, U20). -/

namespace Sys2Proof.Machine

theorem step_frame {s : State} {f : List Byte} {i : Instr} {rest : List Input} (h : s.inputs = .frame f :: rest)
    (hd : decodeFrame f = .ok i) : step s = exec i { s with inputs := rest } := by
  simp [step, fetch, h, hd]

theorem step_undecodable {s : State} {f : List Byte} {why : Reject} {rest : List Input}
    (h : s.inputs = .frame f :: rest) (hd : decodeFrame f = .error why) : step s = .refused (.undecodable why) := by
  simp [step, fetch, h, hd]

/-- The five wire operations take every operand, so no decoded one is outside its domain. -/
theorem wireInstr_wellFormed (row : WireRow) (f : List Byte) : (wireInstr row f).wellFormed = true := by
  cases row <;> rfl

theorem decodeFrame_wellFormed {f : List Byte} {i : Instr} (h : decodeFrame f = .ok i) : i.wellFormed = true := by
  obtain ⟨r, -, -, rfl⟩ := decodeFrame_eq_ok h
  exact wireInstr_wellFormed r.row f

/-- Settles O52, one lemma per shape of the head of `inputs`. -/
theorem stepRunsOfferedOperation : Obligations.StepRunsOfferedOperation := by
  intro s rest
  exact ⟨fun i h => step_op h, fun f i h hd => ⟨decodeFrame_wellFormed hd, step_frame h hd⟩,
    fun f why h hd => step_undecodable h hd, step_idle⟩

end Sys2Proof.Machine
end

section
/-! Rounding and scaling as statements of their own (R124, R134): which integer the default rule picks, and how near a
count reads back to the value it was taken of. -/

namespace Sys2Proof.Machine

/-! ### The default tie rule -/

theorem roundRat_of_half {tie : RoundTie} {x : Rat} (h : x - x.floor = 1 / 2) :
    roundRat tie x = if tieUp tie x.floor then x.floor + 1 else x.floor := by
  rw [roundRat, if_neg h.not_lt, if_neg h.not_gt]

/-- At or above zero the default rule sends an exact half up, so the result is less than one half below. -/
theorem sub_roundRat_halfAwayFromZero_lt {x : Rat} (h : 0 ≤ x) :
    x - roundRat .halfAwayFromZero x < 1 / 2 := by
  obtain ⟨hr, hx⟩ | ⟨hr, -⟩ := roundRat_cases .halfAwayFromZero x
  · refine lt_of_le_of_ne (hr ▸ hx) fun hhalf => ?_
    have hup := roundRat_of_half (tie := .halfAwayFromZero) (hr ▸ hhalf)
    have hf : 0 ≤ x.floor := Rat.le_floor_iff.mpr h
    rw [hr, tieUp, if_pos (decide_eq_true hf)] at hup
    omega
  · have := Rat.lt_floor_add_one x
    rw [hr]
    push_cast at this ⊢
    linarith

/-- Below zero it sends an exact half down, so the result is less than one half above. -/
theorem roundRat_halfAwayFromZero_sub_lt {x : Rat} (h : x < 0) :
    roundRat .halfAwayFromZero x - x < 1 / 2 := by
  obtain ⟨hr, -⟩ | ⟨hr, hx⟩ := roundRat_cases .halfAwayFromZero x
  · have := Rat.floor_le x
    rw [hr]
    linarith
  · refine lt_of_le_of_ne ?_ fun hhalf => ?_
    · rw [hr]
      push_cast
      linarith
    · have hfrac : x - x.floor = 1 / 2 := by
        rw [hr] at hhalf
        push_cast at hhalf
        linarith
      have hdown := roundRat_of_half (tie := .halfAwayFromZero) hfrac
      have hf : x.floor < 0 := Rat.floor_lt_iff.mpr h
      rw [hr, tieUp, if_neg (by simpa using hf)] at hdown
      omega

/-- The floor of `y + 1/2` is the only integer at most one half above `y` and less than one half below. -/
theorem floor_add_half_eq {y : Rat} {n : Int} (hle : n - y ≤ 1 / 2) (hlt : y - n < 1 / 2) :
    (y + 1 / 2).floor = n :=
  (Int.floor_eq_iff (a := y + 1 / 2)).mpr ⟨by linarith, by linarith⟩

/-- Settles O5. -/
theorem roundingIsNearestHalfAwayFromZero : Obligations.RoundingIsNearestHalfAwayFromZero := by
  refine ⟨abs_roundRat_sub_le, fun x hx => ?up, fun x hx => ?down⟩
  case up =>
    have hle := (abs_le.mp (abs_roundRat_sub_le .halfAwayFromZero x)).2
    exact (floor_add_half_eq hle (sub_roundRat_halfAwayFromZero_lt hx)).symm
  case down =>
    have hge := (abs_le.mp (abs_roundRat_sub_le .halfAwayFromZero x)).1
    have hlt := roundRat_halfAwayFromZero_sub_lt hx
    have hmirror : (-x + 1 / 2).floor = -roundRat .halfAwayFromZero x :=
      floor_add_half_eq (by push_cast; linarith) (by push_cast; linarith)
    rw [hmirror, neg_neg]

/-! ### Reading a count back -/

/-- A 16-bit count over the scale is on the grid and is counted as itself, whatever the tie rule. -/
theorem scale16_div_toNat (tie : RoundTie) {k : Rat} {n : Nat} (hk : k ≠ 0) (hn : n ≤ 65535) :
    (scale16 tie (n / k) k).toNat = n := by
  have hword : (BitVec.ofNat 16 n).toNat = n := Nat.mod_eq_of_lt (by omega)
  rw [scale16_of_mul_eq (n := BitVec.ofNat 16 n) (by rw [div_mul_cancel₀ _ hk, hword]), hword]

/-- The two bytes of a count read back within half a count, as long as the product is not saturated. -/
theorem abs_scale16_div_sub_le (tie : RoundTie) {x k : Rat} (hk : 0 < k) (h0 : 0 ≤ x) (h1 : x * k ≤ 65535) :
    |((be16 (hi8 (scale16 tie x k)) (lo8 (scale16 tie x k))).toNat : Rat) / k - x| ≤ 1 / 2 / k := by
  rw [be16_hi8_lo8, div_sub' hk.ne', abs_div, abs_of_pos hk, mul_comm k x]
  gcongr
  exact abs_scale16_toNat_sub_le tie (by positivity) h1

/-- Settles O6: `60` volts and `6` amperes are `6000` counts, so nothing is saturated. -/
theorem scalingRoundTrip : Obligations.ScalingRoundTrip := by
  refine fun tie => ⟨fun n hn => ⟨?_, ?_⟩, fun v h0 h1 => ?_, fun a h0 h1 => ?_⟩
  · exact scale16_div_toNat tie (by norm_num) (by omega)
  · exact scale16_div_toNat tie (by norm_num) (by omega)
  · exact (abs_scale16_div_sub_le tie (by norm_num) h0 (by linarith)).trans (by norm_num)
  · exact (abs_scale16_div_sub_le tie (by norm_num) h0 (by linarith)).trans (by norm_num)

end Sys2Proof.Machine
end

section
/-! The remaining operations as whole next states: the refused append (R43), opening and closing (R171, R194, R196),
the polls (R198, R208, R210), the Set commands without a connection (R199), the subscribers (R214, R215). -/

namespace Sys2Proof.Machine

/-! ### The refused append -/

theorem exec_rxChunk_of_overflow {s : State} {bytes : List Byte} (hl : s.live = true)
    (hc : fitsCap s.params.rxBufCap (s.buf.length + bytes.length) = false) :
    exec (.rxChunk bytes) s = .refused .rxBufOverflow := by
  change execRxChunk bytes s = _
  rw [execRxChunk, hl, hc]
  rfl

/-- Settles O32. -/
theorem rxOverflowRefused : Obligations.RxOverflowRefused := by
  intro bytes s cap hl hcap hlt
  refine exec_rxChunk_of_overflow hl ?_
  rw [hcap]
  exact decide_eq_false (not_le.mpr hlt)

/-! ### Opening and closing -/

theorem exec_tOpen_ok (port : String) (s : State) :
    exec (.tOpen port .ok) s = .next { s with live := true, result := .done } := rfl

theorem exec_tOpen_err (port msg : String) (s : State) : exec (.tOpen port (.err msg)) s =
    .next { s with live := false, result := .raised (.connectionError msg) } := rfl

/-- Settles O34. -/
theorem tOpenFollowsOutcome : Obligations.TOpenFollowsOutcome :=
  fun port s => ⟨exec_tOpen_ok port s, fun msg => exec_tOpen_err port msg s⟩

/-- Settles O39. -/
theorem connectFollowsOutcome : Obligations.ConnectFollowsOutcome :=
  fun port s => ⟨execConnect_ok port s, fun msg => execConnect_err port msg s⟩

/-- Settles O40. -/
theorem disconnectIsIdempotent : Obligations.DisconnectIsIdempotent :=
  fun s => ⟨_, rfl, execDisconnect_eq s, exec_disconnect_idempotent (execDisconnect_eq s)⟩

/-! ### Polls -/

/-- What a poll leaves in `tx` (R200), with `connected()` and the frame written out. -/
theorem poll_tx (s : State) : (if isConnected s then s.tx ++ encodeReadValues else s.tx) =
    if s.conn = .connected ∧ s.live = true then s.tx ++ [0xF7, 0x01, 0x03, 0x04, 0x03, 0x62, 0xE8, 0xFD]
    else s.tx := by
  simp only [isConnected_iff, encodeReadValues_eq]

theorem exec_startPolling_of_pollInterval {interval : Option Quantity} {q : Rat}
    (h : pollInterval interval = some q) (s : State) : exec (.startPolling interval) s =
      .next { s with
        pollSched := some q
        tx := if isConnected s then s.tx ++ encodeReadValues else s.tx
        result := .done } := by
  refine (execStartPolling_of_pollInterval h s).trans ?_
  rw [poll_eq]
  rfl

theorem exec_startPolling_refused {interval : Option Quantity} (h : pollInterval interval = none) (s : State) :
    exec (.startPolling interval) s = .refused .intervalOutsideDomain := by
  change execStartPolling interval s = _
  rw [execStartPolling, h]

/-- Settles O41: `pollInterval` is defined exactly on no interval and the positive ones. -/
theorem startPollingSchedulesAndPolls : Obligations.StartPollingSchedulesAndPolls := by
  intro s
  refine ⟨fun interval q hq => ?_, fun q hq => ?_, exec_startPolling_refused rfl s⟩
  · rw [exec_startPolling_of_pollInterval (pollInterval_eq_some.mpr hq), poll_tx]
  · exact exec_startPolling_refused (by rw [pollInterval, if_neg (not_lt.mpr hq)]) s

/-- Settles O48. -/
theorem pollTickPollsWhileScheduled : Obligations.PollTickPollsWhileScheduled := by
  intro s
  constructor
  · intro q hq
    have hen : pollEnabled s = true := by rw [pollEnabled, hq]; rfl
    refine (execPollTick_eq s).trans ?_
    simp only [hen, true_and, poll_tx]
  · intro hq
    exact exec_of_not_enabled rfl (by rw [enabled, pollEnabled, hq]; rfl)

theorem exec_confirmTick_of_pending {d : Delay} {s : State} (h : 0 < confirmCount s.confirmPending d) :
    exec (.confirmTick d) s =
      .next { s with
        confirmPending := confirmRemove d s.confirmPending
        tx := if isConnected s then s.tx ++ encodeReadValues else s.tx
        result := .done } := by
  have hen : confirmEnabled d s = true := decide_eq_true h
  refine (execConfirmTick_eq d s).trans ?_
  simp only [hen, if_true, true_and]

theorem exec_confirmTick_of_not_pending {d : Delay} {s : State} (h : confirmCount s.confirmPending d = 0) :
    exec (.confirmTick d) s = .next { s with result := .done } :=
  exec_of_not_enabled rfl (decide_eq_false h.not_gt)

/-- Settles O49. -/
theorem confirmTickFiresOnce : Obligations.ConfirmTickFiresOnce := by
  intro s
  rw [← poll_tx]
  exact ⟨exec_confirmTick_of_pending (d := .half), exec_confirmTick_of_pending (d := .threeTenths),
    exec_confirmTick_of_not_pending (d := .half), exec_confirmTick_of_not_pending (d := .threeTenths)⟩

/-! ### Set commands without a connection, and the subscribers -/

/-- Settles O47: behind the range check both commands are a `guardedSend`. -/
theorem setInRangeWithoutConnectionIsNoOp : Obligations.SetInRangeWithoutConnectionIsNoOp := by
  refine fun s hn => ⟨fun v h0 h1 => ?_, fun a h0 h1 => ?_⟩
  · rw [exec_sendSetVoltage_in s h0 h1, guardedSend_of_not_connected hn]
  · rw [exec_sendSetCurrent_in s h0 h1, guardedSend_of_not_connected hn]

theorem exec_subscribe (h : Handle) (s : State) :
    exec (.subscribe h) s = .next { s with subs := s.subs ++ [h], result := .done } := rfl

theorem exec_notify (v i : Rat) (o : Bool) (s : State) :
    exec (.notify v i o) s = .next { notifyAll v i o s with result := .done } := rfl

/-- Settles O51: `notifyAll` maps over `subs`, so the calls stand in registration order. -/
theorem subscribersCalledInOrder : Obligations.SubscribersCalledInOrder :=
  fun s => ⟨fun h => exec_subscribe h s, fun v i o => exec_notify v i o s⟩

end Sys2Proof.Machine
end
